-- ==== Sys2Proof/Word.lean ====
section
/-! DEFINITION. The widths of this hardware's cells, command words, addresses and host data
(R6, R7 of 00_scope.md; R62 of 20_memory.md; R112 to R114 of 30_encoding.md). -/

namespace Sys2Proof

/-- A symbol: an integer 0 to 31 in a 5-bit cell, and an element of GF(32) (R112). -/
abbrev Symbol := BitVec 5

/-- A decimal digit in its 4-bit cell (R113); 10 to 15 never occur in `DEC` (R24). -/
abbrev DecDigit := BitVec 4

/-- One byte of text (R114). -/
abbrev TextByte := BitVec 8

/-- A command word (R101). -/
abbrev CmdWord := BitVec 16

/-- A host address: it names at most one cell (R60). -/
abbrev HostAddr := BitVec 12

/-- The data of one host transaction (R61). -/
abbrev HostData := BitVec 64

end Sys2Proof
end

