-- ==== Sys2Proof/Syntax.lean ====
section
/-! DEFINITION. The commands (R104 of 30_encoding.md), the cells of the host register space (R63 of 20_memory.md), the host's
events and the block's answers (R61 of 20_memory.md, R320 of 70_reset_and_hazards.md) and the statements of the host assembly
(R118, R119 of 30_encoding.md). -/

namespace Sys2Proof

/-- The commands of RCX-1, one constructor per row of the opcode map (R104). Only `GFMUL` carries operands, two symbols in the
command word (R105); every other command takes its operands from the registers its rule names. -/
inductive Instr where
  | nop
  | ddd
  | r10t32
  | r32t10
  | dacc
  | gfmul (a b : Symbol)
  | rsenc
  | rschk
  | fmt
  | parse
  | encode
  | decode
  | clr
deriving DecidableEq, Repr

/-- The cells a host address can name (R63). An index is within its array by its type. -/
inductive Cell where
  | id
  | cmd
  | status
  | dlen
  | clen
  | passes
  | gp
  | tinlen
  | toutlen
  | dec (i : Fin 20)
  | cw (i : Fin 17)
  | p (i : Fin 4)
  | syn (i : Fin 4)
  | tout (i : Fin 26)
  | tin (i : Fin 64)
  | romExp (i : Fin 32)
  | romLog (i : Fin 32)
  | romMap (i : Fin 17)
  | romAlpha (i : Fin 32)
  | romGen (i : Fin 4)
  | romPrefix (i : Fin 6)
deriving DecidableEq, Repr

/-- What the outside world does to the block, one event at a time (R61, R82): the host's two transactions `RD addr` and
`WR addr, data`, and the platform's reset (R320). -/
inductive HostEvent where
  | rd (addr : HostAddr)
  | wr (addr : HostAddr) (data : HostData)
  | reset
deriving DecidableEq, Repr

/-- The answer to one transaction (R61): `ok(data)` to a read, `ok` to a write, `err` to either. -/
inductive Response where
  | okData (data : HostData)
  | ok
  | err
deriving DecidableEq, Repr

/-- The statements of the host assembly (R118) and its pseudo-instructions (R119). `wr` and `rd` take a cell by name,
`wrAddr` and `rdAddr` by its hexadecimal address; `cmd` is a mnemonic line. -/
inductive HostStatement where
  | wr (c : Cell) (value : HostData)
  | rd (c : Cell)
  | wrAddr (addr : HostAddr) (value : HostData)
  | rdAddr (addr : HostAddr)
  | cmd (i : Instr)
  | ldid (n : HostData)
  | ldcw (c : Vector Symbol 17)
  | lddata (d : Vector Symbol 13)
  | ldstr (text : List TextByte)
  | rdid
  | rdcw
  | rddec
  | rdstr
  | rdst
deriving DecidableEq, Repr

end Sys2Proof
end

