-- ==== Sys2Proof/Decode.lean ====
section
/-! DEFINITION. Decoding of command words, total and rejecting by name, and the encoder (R101 to R106, R110 of 30_encoding.md). -/

namespace Sys2Proof

/-- Why a word is no command (R110). -/
inductive IllegalWord where
  /-- Format Z with one of bits 11:0 set (R102). -/
  | mbzOfFormatZ
  /-- Format G with bit 11 or 10 set (R103). -/
  | mbzOfFormatG
  /-- Opcode 13, 14 or 15 (R104). -/
  | reservedOpcode
deriving DecidableEq, Repr

/-- What a 16-bit word decodes to (R106). -/
inductive Decoded where
  | command (i : Instr)
  | illegal (why : IllegalWord)
deriving DecidableEq, Repr

/-- The command a word decodes to, if it is one. -/
def Decoded.command? : Decoded → Option Instr
  | .command i => some i
  | .illegal _ => none

/-- Bits 15:12, the opcode (R102, R103). -/
def opField (w : CmdWord) : BitVec 4 := w.extractLsb' 12 4

/-- Bits 11:0, zero in format Z (R102). -/
def mbzZ (w : CmdWord) : BitVec 12 := w.extractLsb' 0 12

/-- Bits 11:10, zero in format G (R103). -/
def mbzG (w : CmdWord) : BitVec 2 := w.extractLsb' 10 2

/-- Bits 9:5, the first operand of format G (R103, R105). -/
def aField (w : CmdWord) : Symbol := w.extractLsb' 5 5

/-- Bits 4:0, the second operand of format G (R103, R105). -/
def bField (w : CmdWord) : Symbol := w.extractLsb' 0 5

/-- The format-Z command of an opcode (R104, R106). -/
def decodeOp (op : BitVec 4) : Decoded :=
  match op.toNat with
  | 0 => .command .nop
  | 1 => .command .ddd
  | 2 => .command .r10t32
  | 3 => .command .r32t10
  | 4 => .command .dacc
  | 6 => .command .rsenc
  | 7 => .command .rschk
  | 8 => .command .fmt
  | 9 => .command .parse
  | 10 => .command .encode
  | 11 => .command .decode
  | 12 => .command .clr
  | _ => .illegal .reservedOpcode

/-- Decoding, total on 16-bit words (R106). -/
def decode (w : CmdWord) : Decoded :=
  if opField w = 5 then
    if mbzG w ≠ 0 then .illegal .mbzOfFormatG else .command (.gfmul (aField w) (bField w))
  else if mbzZ w ≠ 0 then .illegal .mbzOfFormatZ
  else decodeOp (opField w)

/-- The word of a command (R104); `GFMUL` by the pattern `010100aaaaabbbbb` of R103. -/
def encode : Instr → CmdWord
  | .nop => 0x0000
  | .ddd => 0x1000
  | .r10t32 => 0x2000
  | .r32t10 => 0x3000
  | .dacc => 0x4000
  | .gfmul a b => 0b010100#6 ++ a ++ b
  | .rsenc => 0x6000
  | .rschk => 0x7000
  | .fmt => 0x8000
  | .parse => 0x9000
  | .encode => 0xA000
  | .decode => 0xB000
  | .clr => 0xC000

/-- The instruction the decoder reads from the low `nbits` bits of `w`. A command word has 16 bits (R101); a number that needs more
is no command word (R69), so it decodes to nothing. -/
def decodeTableWord (nbits w : Nat) : Option Instr :=
  let v := w % 2 ^ nbits
  if v < 65536 then (decode (BitVec.ofNat 16 v)).command? else none

end Sys2Proof
end

