-- ==== Sys2Proof/Config.lean ====
section
/-! DEFINITION. The two parameters of R6 and R7 (00_scope.md) that are numbers a meaning compares with; the other sizes of R6 are
the types of State and of the tables. Parameters are configuration, not state (R48 of 10_state.md). The constant tables, also
configuration, stand in Sys2Proof/Machine/Tables.lean. There is no free value: the spec leaves no value of this hardware unspecified
(R50, R324). -/

namespace Sys2Proof.Config

/-- `TIN_CAP`, the cells of the text input buffer (R7). DESIGN CHOICE (log 8): R7 allows any value from 26 to 256 and takes 64,
and so does the model, in `State.tin` and `Cell.tin` too. -/
def tinCap : Nat := 64

/-- The first value that does not fit `ID`, 2^64 (`ID_W` of R6; R135, R295). -/
def idLimit : Nat := 18446744073709551616

end Sys2Proof.Config
end

