-- ==== Sys2Proof/Machine/State.lean ====
section
/-! DEFINITION. The state of the block (R20 of 10_state.md), its reset (R50, R320) and the reasons a step can stop. -/

namespace Sys2Proof.Machine

/-- Why the machine stops with a fault. The spec gives this hardware no such stop (R298, R301): its errors are outcome codes
(R290) and `err` answers (R68, R69), and both are next states. -/
inductive Fault where
  /-- Raised by `R10T32` and `DACC` when `DLEN` holds more than 20, and by `PARSE` and `DECODE` when `TINLEN` holds more than
  `TIN_CAP`: values these registers never hold (R20), with which the buffer they bound would be read outside (R268). Safe: no state
  with R20's legal values reaches it (log 6). -/
  | lengthOutOfRange
deriving DecidableEq, Repr

/-- Why a step is refused. -/
inductive Refusal where
  /-- Raised by `exec`'s arm of an instruction that has no meaning yet. Safe. No arm of this model answers so. -/
  | notModelled (mnemonic : String)
  /-- Raised by the conversion of `R10T32` when `DEC` holds a value of 2^65 or more, which needs more than 13 symbols: the refusal
  that R162 asks of a model whose `DEC` can hold any digits. Safe: no state with R24 reaches it (log 5). -/
  | decimalTooWide
deriving DecidableEq, Repr

/-- The state of one block (R20), and the model's two fields for its one host. -/
structure State where
  /-- `ID`, the NumericId (R21). -/
  id : BitVec 64
  /-- `DEC[0..19]`, decimal digits, most significant first, left-aligned (R22). -/
  dec : Vector DecDigit 20
  /-- `DLEN`, the significant length of `DEC` (R23). -/
  dlen : BitVec 5
  /-- `CW[0..16]`, the codeword; `CW[k]` for k below 13 has weight 32^k (R25, R26). -/
  cw : Vector Symbol 17
  /-- `CLEN`, the symbols the last parse placed (R27). -/
  clen : BitVec 5
  /-- `P[0..3]`, the parity accumulator (R28). -/
  p : Vector Symbol 4
  /-- `SYN[0..3]`, the syndromes of the last validation (R29). -/
  syn : Vector Symbol 4
  /-- `GP`, the product register (R30). -/
  gp : BitVec 5
  /-- `PASSES`, the division passes of the last conversion (R31). -/
  passes : BitVec 5
  /-- `TIN`, the text input buffer (R32). -/
  tin : Vector TextByte 64
  /-- `TINLEN`, the length of the input string (R33). -/
  tinlen : BitVec 7
  /-- `TOUT[0..25]`, the text output buffer (R34). -/
  tout : Vector TextByte 26
  /-- `TOUTLEN`, the valid bytes of `TOUT` (R35). -/
  toutlen : BitVec 5
  /-- `STATUS.CODE`, the outcome of the most recent command (R41). -/
  code : BitVec 4
  /-- `STATUS.VALID`, the result of the most recent validation (R42). -/
  valid : Bool
  /-- The MODEL's field: the host's events still to come, oldest first (log 1). -/
  pending : List HostEvent
  /-- The MODEL's field: the answer to the most recent transaction (log 2). -/
  response : Option Response
deriving DecidableEq, Repr

/-- The state after reset: every piece of R20 at the value of its reset column (R50); no event waits and nothing has been answered
(DESIGN CHOICE, log 1 and log 2). -/
def State.reset : State where
  id := 0
  dec := Vector.replicate 20 0
  dlen := 1
  cw := Vector.replicate 17 0
  clen := 0
  p := Vector.replicate 4 0
  syn := Vector.replicate 4 0
  gp := 0
  passes := 0
  tin := Vector.replicate 64 0
  tinlen := 0
  tout := Vector.replicate 26 0
  toutlen := 0
  code := 0
  valid := false
  pending := []
  response := none

end Sys2Proof.Machine
end

