-- ==== Sys2Proof/Machine/Ops.lean ====
section
/-! DEFINITION. The operations the meanings share: ending a command, with `OK` or by a raise (R13 of 00_scope.md, R291 of
60_exceptions.md), composing the steps of a composite command (R260 of 45_composite_system_host.md), the value of a digit sequence
(R10 of 00_scope.md), and the writes of the digit, symbol and text buffers. -/

namespace Sys2Proof.Machine

/-- The outcomes of a command (R290). -/
inductive CmdOutcome where
  | ok
  | codewordTooLong
  | codewordInvalid
  | idOverflow
  | illegalCommand
deriving DecidableEq, Repr

/-- The code of an outcome, the value written to `STATUS.CODE` (R290, R41). -/
def CmdOutcome.code : CmdOutcome → BitVec 4
  | .ok => 0
  | .codewordTooLong => 1
  | .codewordInvalid => 2
  | .idOverflow => 3
  | .illegalCommand => 4

/-- Ending a command with an outcome: `STATUS.CODE` is written and nothing else (R13, R291). For an outcome other than `ok` this is
TAKING AN EXCEPTION as this hardware has it (R291): the writes made before stay, nothing is saved, no mode or mask changes, control
goes nowhere. There is no return from it beside it: the next command simply starts from the state left here (R298). -/
def endWith (o : CmdOutcome) (s : State) : State := { s with code := o.code }

/-- How a unit's step inside a command ends, `STATUS.CODE` not yet written (R260). -/
inductive Ending where
  /-- It ran to its end. -/
  | done (s : State)
  /-- It raised an outcome; `s` holds the writes already made (R13, R291). -/
  | raised (o : CmdOutcome) (s : State)
  /-- The model stops with a fault. -/
  | stopFault (f : Fault)
  /-- The model refuses. -/
  | stopRefused (r : Refusal)
deriving DecidableEq, Repr

/-- The next step of a composite command: it reads what the first one wrote, and is not performed when the first one raised
(R260). -/
def Ending.andThen (e : Ending) (next : State → Ending) : Ending :=
  match e with
  | .done s => next s
  | .raised o s => .raised o s
  | .stopFault f => .stopFault f
  | .stopRefused r => .stopRefused r

/-- The end of a command: `STATUS.CODE` is written once, `OK` or the outcome raised (R13, R260). -/
def Ending.finish (e : Ending) : Host.Outcome State Fault Refusal :=
  match e with
  | .done s => .next (endWith .ok s)
  | .raised o s => .next (endWith o s)
  | .stopFault f => .fault f
  | .stopRefused r => .refused r

/-- `val_B(d)`, the value of a big-endian digit sequence in base `b`; 0 for the empty one (R10). -/
def val (b : Nat) (d : List Nat) : Nat := d.foldl (fun v x => v * b + x) 0

/-- Twenty cells holding a digit sequence left-aligned, the cells beyond it zero (R22, R131, R165). -/
def decCells (d : List Nat) : Vector DecDigit 20 := Vector.ofFn fun i => BitVec.ofNat 4 (d.getD i.val 0)

/-- `CW[0..12]` written, least significant first, the cells beyond the given symbols zero; `CW[13..16]` kept (R160, R161). -/
def putData (d : List Symbol) (cw : Vector Symbol 17) : Vector Symbol 17 :=
  Vector.ofFn fun k => if k.val < 13 then d.getD k.val 0 else cw[k.val]

/-- `CW[13..16]` written from four accumulator slots in ascending order; `CW[0..12]` kept (R203, R205). -/
def putParity (q : Vector Symbol 4) (cw : Vector Symbol 17) : Vector Symbol 17 :=
  Vector.ofFn fun k => if h : 13 ≤ k.val then q[k.val - 13]'(by omega) else cw[k.val]

end Sys2Proof.Machine
end

