-- ==== Sys2Proof/Machine/Tables.lean ====
section
/-! DEFINITION. The constant tables (R73 to R79 of 20_memory.md): the same in every instance, never written, not state (R48). The
contents of EXP, LOG, MAP and ALPHA are the spec's R74 to R77, which the spec itself marks as not in its source (log 7). -/

namespace Sys2Proof.Machine

/-- `EXP[0..31]` (R74). -/
def expTable : Vector Symbol 32 :=
  #v[1, 2, 4, 8, 16, 5, 10, 20, 13, 26, 17, 7, 14, 28, 29, 31,
    27, 19, 3, 6, 12, 24, 21, 15, 30, 25, 23, 11, 22, 9, 18, 1]

/-- `LOG[0..31]` (R75); `LOG[0]` is a filler that no rule reads. -/
def logTable : Vector Symbol 32 :=
  #v[0, 0, 1, 18, 2, 5, 19, 11, 3, 29, 6, 27, 20, 8, 12, 23,
    4, 10, 30, 17, 7, 22, 28, 26, 21, 25, 9, 16, 13, 14, 24, 15]

/-- `MAP[0..16]`: the index of the `CW` cell shown as the i-th character (R76). An entry indexes `CW` and is kept as such; its 5-bit
cell is what a host read returns. -/
def mapTable : Vector (Fin 17) 17 :=
  #v[3, 2, 1, 0, 7, 6, 5, 4, 13, 14, 15, 16, 12, 8, 9, 10, 11]

/-- `ALPHA[0..31]`: the bytes of `23456789ABCDEFGHJKLMNPQRSTUVWXYZ` (R77). -/
def alphaTable : Vector TextByte 32 :=
  #v[0x32, 0x33, 0x34, 0x35, 0x36, 0x37, 0x38, 0x39, 0x41, 0x42, 0x43, 0x44, 0x45, 0x46, 0x47, 0x48,
    0x4A, 0x4B, 0x4C, 0x4D, 0x4E, 0x50, 0x51, 0x52, 0x53, 0x54, 0x55, 0x56, 0x57, 0x58, 0x59, 0x5A]

/-- `GEN[0..3]`, the generator constants (R79). -/
def genTable : Vector Symbol 4 := #v[17, 9, 6, 30]

/-- `PREFIX[0..5]`, the bytes of `BURST-` (R78). -/
def prefixTable : Vector TextByte 6 := #v[0x42, 0x55, 0x52, 0x53, 0x54, 0x2D]

/-- The dash byte, the separator of R116. -/
def dashByte : TextByte := 0x2D

end Sys2Proof.Machine
end

