-- ==== Sys2Proof/Machine/FieldMultiplier.lean ====
section
/-! DEFINITION. Unit gf32_multiplier: multiplication in GF(32), and GFMUL (42_gf32_multiplier.md). -/

namespace Sys2Proof.Machine

/-- `EXP[n mod 31]` (R180, R211): the index is in the table by its reduction (R268). -/
def expAt (n : Nat) : Symbol := expTable[n % 31]'(by omega)

/-- `LOG[a]` (R180). -/
def logOf (a : Symbol) : Nat := (logTable[a.toNat]'a.isLt).toNat

/-- The function `gmul`; the zero test comes first, so `LOG[0]` is never read (R180). -/
def gmul (a b : Symbol) : Symbol :=
  if a = 0 ∨ b = 0 then 0 else expAt (logOf a + logOf b)

/-- `GFMUL a, b`: the product of the two symbols of the command word to `GP` (R183). -/
def execGfmul (a b : Symbol) (s : State) : Host.Outcome State Fault Refusal :=
  (Ending.done { s with gp := gmul a b }).finish

end Sys2Proof.Machine
end

