-- ==== Sys2Proof/Machine/Flags.lean ====
section
/-! DEFINITION. The STATUS register and its one flag, VALID (R40 to R42 of 10_state.md). -/

namespace Sys2Proof.Machine

/-- The validity test: the bitwise or of the four syndromes is zero (R211, R42). -/
def syndromesZero (S : Vector Symbol 4) : Bool := (S[0] ||| S[1] ||| S[2] ||| S[3]) == 0

/-- The effect of a validation on the flag: `SYN` written, and `VALID` set exactly when all four syndromes are zero
(R29, R42, R212). -/
def recordValidation (S : Vector Symbol 4) (s : State) : State := { s with syn := S, valid := syndromesZero S }

/-- The 5-bit `STATUS` cell: `CODE` in bits 3:0, `VALID` in bit 4 (R40). -/
def statusWord (s : State) : BitVec 5 := BitVec.ofBool s.valid ++ s.code

end Sys2Proof.Machine
end

