-- ==== Sys2Proof/Machine/Operands.lean ====
section
/-! DEFINITION. What the commands read: the significant decimal digits, the data symbols, the input string (R22, R25, R32 of
10_state.md), and the cell a host address names (R63 of 20_memory.md), the one addressing mode there is (R268 of
45_composite_system_host.md). -/

namespace Sys2Proof.Machine

/-- `DEC[0..DLEN-1]` as numbers, most significant first, never the padding (R22, R132). A `DLEN` above 20 never occurs (R20) and
bounds no buffer (log 6). -/
def decDigits (s : State) : Option (List Nat) :=
  if s.dlen.toNat ≤ 20 then some ((s.dec.toList.take s.dlen.toNat).map BitVec.toNat) else none

/-- `[CW[0], ..., CW[12]]`, the data symbols, least significant first (R25, R26). -/
def dataSymbols (s : State) : List Symbol := s.cw.toList.take 13

/-- `[CW[12], ..., CW[0]]`, the data symbols as a big-endian base-32 digit sequence (R165). -/
def dataDigits (s : State) : List Nat := (dataSymbols s).reverse.map BitVec.toNat

/-- `TIN[0..TINLEN-1]`, the input string (R32, R334). A `TINLEN` above `TIN_CAP` never occurs (R33) and bounds no buffer (log 6). -/
def inputBytes (s : State) : Option (List TextByte) :=
  if s.tinlen.toNat ≤ Config.tinCap then some (s.tin.toList.take s.tinlen.toNat) else none

/-- The address of a cell (R63). -/
def addrOf : Cell → HostAddr
  | .id => 0x000
  | .cmd => 0x001
  | .status => 0x002
  | .dlen => 0x003
  | .clen => 0x004
  | .passes => 0x005
  | .gp => 0x006
  | .tinlen => 0x007
  | .toutlen => 0x008
  | .dec i => BitVec.ofNat 12 (0x100 + i.val)
  | .cw i => BitVec.ofNat 12 (0x200 + i.val)
  | .p i => BitVec.ofNat 12 (0x300 + i.val)
  | .syn i => BitVec.ofNat 12 (0x310 + i.val)
  | .tout i => BitVec.ofNat 12 (0x400 + i.val)
  | .tin i => BitVec.ofNat 12 (0x500 + i.val)
  | .romExp i => BitVec.ofNat 12 (0x800 + i.val)
  | .romLog i => BitVec.ofNat 12 (0x820 + i.val)
  | .romMap i => BitVec.ofNat 12 (0x840 + i.val)
  | .romAlpha i => BitVec.ofNat 12 (0x860 + i.val)
  | .romGen i => BitVec.ofNat 12 (0x880 + i.val)
  | .romPrefix i => BitVec.ofNat 12 (0x890 + i.val)

/-- The index an address has in an array of `n` cells that begins at `base`, if it is in it (R63). -/
def indexIn (base n a : Nat) : Option (Fin n) :=
  if h : base ≤ a ∧ a < base + n then some ⟨a - base, by omega⟩ else none

/-- The cell of an array page of the address map: the page is the top digit of the address (R63). Page 3 holds `P` and `SYN`,
page 8 the tables. -/
def arrayCellAt (a : Nat) : Option Cell :=
  match a / 256 with
  | 1 => (indexIn 0x100 20 a).map Cell.dec
  | 2 => (indexIn 0x200 17 a).map Cell.cw
  | 3 => (indexIn 0x300 4 a).map Cell.p <|> (indexIn 0x310 4 a).map Cell.syn
  | 4 => (indexIn 0x400 26 a).map Cell.tout
  | 5 => (indexIn 0x500 64 a).map Cell.tin
  | 8 =>
    (indexIn 0x800 32 a).map Cell.romExp <|> (indexIn 0x820 32 a).map Cell.romLog <|>
    (indexIn 0x840 17 a).map Cell.romMap <|> (indexIn 0x860 32 a).map Cell.romAlpha <|>
    (indexIn 0x880 4 a).map Cell.romGen <|> (indexIn 0x890 6 a).map Cell.romPrefix
  | _ => none

/-- The cell a host address names, none where the address is unmapped (R60, R63). -/
def cellAt (addr : HostAddr) : Option Cell :=
  match addr.toNat with
  | 0 => some .id
  | 1 => some .cmd
  | 2 => some .status
  | 3 => some .dlen
  | 4 => some .clen
  | 5 => some .passes
  | 6 => some .gp
  | 7 => some .tinlen
  | 8 => some .toutlen
  | a => arrayCellAt a

end Sys2Proof.Machine
end

