-- ==== Sys2Proof/Machine/ReedSolomon.lean ====
section
/-! DEFINITION. Units reed_solomon_encoder and reed_solomon_decoder: RSENC and RSCHK (43_reed_solomon.md). -/

namespace Sys2Proof.Machine

/-- One step of the feedback register for the data symbol `d`: the four new slots from the four old ones at once (R201). -/
def lfsrStep (d : Symbol) (q : Vector Symbol 4) : Vector Symbol 4 :=
  let fb := d ^^^ q[3]
  #v[gmul genTable[0] fb, q[0] ^^^ gmul genTable[1] fb, q[1] ^^^ gmul genTable[2] fb, q[2] ^^^ gmul genTable[3] fb]

/-- The function `rsenc`: from an accumulator of zeros, the data symbols from the last to the first (R202). -/
def rsenc (d : List Symbol) : Vector Symbol 4 := d.foldr lfsrStep (Vector.replicate 4 0)

/-- The step of `RSENC`: the parity of `CW[0..12]` to `P` and `CW[13..16]` (R203, R205). -/
def unitRsenc (s : State) : Ending :=
  let q := rsenc (dataSymbols s)
  .done { s with p := q, cw := putParity q s.cw }

/-- `RSENC` (R203). -/
def execRsenc (s : State) : Host.Outcome State Fault Refusal := (unitRsenc s).finish

/-- The position `j` of codeword index `pos` among 0 to 30 less the skipped 13 to 26: the inverse of R211's correction of 14
(R213, R214). -/
def positionOf (pos : Nat) : Nat := if pos ≤ 12 then pos else pos + 14

/-- `wt(i, pos)`, the weight of `c[pos]` in syndrome `i` (R211, R213). -/
def weight (i pos : Nat) : Symbol := expAt (i * positionOf pos)

/-- Syndrome `i`, the weighted exclusive or over the 17 codeword positions (R211, R213). -/
def syndrome (cw : Vector Symbol 17) (i : Nat) : Symbol :=
  (List.finRange 17).foldl (fun t pos => t ^^^ gmul cw[pos.val] (weight i pos.val)) 0

/-- The function `syn`: the syndromes of weight indices 1 to 4 (R211). -/
def syndromes (cw : Vector Symbol 17) : Vector Symbol 4 :=
  #v[syndrome cw 1, syndrome cw 2, syndrome cw 3, syndrome cw 4]

/-- `RSCHK`: the syndromes of `CW` to `SYN`, and the flag `VALID`; it ends `OK` whether the codeword is valid or not (R212,
conflict C5). -/
def execRschk (s : State) : Host.Outcome State Fault Refusal :=
  (Ending.done (recordValidation (syndromes s.cw) s)).finish

end Sys2Proof.Machine
end

