-- ==== Sys2Proof/Machine/AddressText.lean ====
section
/-! DEFINITION. Unit address_formatter, with the parser: FMT and PARSE (44_address_format_parse.md). -/

namespace Sys2Proof.Machine

/-- The character shown as the `i`-th of the 17: `ALPHA[c[MAP[i]]]` (R231). -/
def shownChar (cw : Vector Symbol 17) (i : Fin 17) : TextByte := alphaTable[(cw[mapTable[i]]).toNat]'(cw[mapTable[i]]).isLt

/-- The byte at index `n` of the text form: the prefix at 0 to 5, a dash at 10, 15 and 20, and the `i`-th character at
`tpos(i) = 6 + i + min(i div 4, 3)` (R116, R231), read here the other way round: the byte at `n` shows character
`n - 6 - min((n - 6) div 5, 3)`. -/
def textByteAt (cw : Vector Symbol 17) (n : Fin 26) : TextByte :=
  if h : n.val < 6 then prefixTable[n.val]
  else if n.val = 10 ∨ n.val = 15 ∨ n.val = 20 then dashByte
  else shownChar cw ⟨n.val - 6 - min ((n.val - 6) / 5) 3, by omega⟩

/-- The function `fmt`: the 26 bytes of the address (R231). -/
def textOf (cw : Vector Symbol 17) : Vector TextByte 26 := Vector.ofFn (textByteAt cw)

/-- The step of `FMT`: the text of whatever `CW` holds to `TOUT` (R232). -/
def unitFmt (s : State) : Ending := .done { s with tout := textOf s.cw, toutlen := 26 }

/-- `FMT` (R232). -/
def execFmt (s : State) : Host.Outcome State Fault Refusal := (unitFmt s).finish

/-- `aidx(c)`: the `v` with `ALPHA[v] = c`, if there is one (R115). -/
def aidx (c : TextByte) : Option Symbol := (alphaTable.toList.findIdx? (· == c)).map (BitVec.ofNat 5)

/-- Step 2 of `PARSE`: the first six bytes are dropped exactly when they are the prefix (R241). -/
def stripPrefix (bytes : List TextByte) : List TextByte :=
  if bytes.take 6 = prefixTable.toList then bytes.drop 6 else bytes

/-- How the scan of `PARSE` ends (R240). -/
inductive ScanEnd where
  /-- An 18th alphabet byte was met; `cw` holds the first 17 symbols. -/
  | tooLong (cw : Vector Symbol 17)
  /-- The string ended after `cnt` alphabet bytes. -/
  | ended (cnt : Nat) (cw : Vector Symbol 17)
deriving DecidableEq, Repr

/-- Step 3 of `PARSE`: an alphabet byte goes to `CW[MAP[cnt]]`, every other byte is skipped silently, and the 18th alphabet byte
ends the scan (R240, R243, R245). -/
def scan : List TextByte → Nat → Vector Symbol 17 → ScanEnd
  | [], cnt, cw => .ended cnt cw
  | b :: rest, cnt, cw =>
    match aidx b with
    | none => scan rest cnt cw
    | some v => if h : cnt < 17 then scan rest (cnt + 1) (cw.set mapTable[cnt] v) else .tooLong cw

/-- Step 1 of `PARSE`: `CW`, `CLEN`, `SYN` and `VALID` cleared (R240, R246). -/
def clearParse (s : State) : State :=
  { s with cw := Vector.replicate 17 0, clen := 0, syn := Vector.replicate 4 0, valid := false }

/-- Step 5 of `PARSE`: the validation of a codeword of 17 symbols (R240, R248). -/
def validateParse (s : State) : Ending :=
  if syndromesZero (syndromes s.cw) then .done (recordValidation (syndromes s.cw) s)
  else .raised .codewordInvalid (recordValidation (syndromes s.cw) s)

/-- Steps 4 and 5 of `PARSE`: what the end of the scan leaves, and how the parse ends (R240, R246, R292, R293, R300). -/
def finishScan (e : ScanEnd) (s : State) : Ending :=
  match e with
  | .tooLong cw => .raised .codewordTooLong { s with cw := cw, clen := 17 }
  | .ended cnt cw =>
    let t := { s with cw := cw, clen := BitVec.ofNat 5 cnt }
    if cnt < 17 then .raised .codewordInvalid t else validateParse t

/-- `PARSE` of a string (R240). -/
def parseBytes (bytes : List TextByte) (s : State) : Ending :=
  finishScan (scan (stripPrefix bytes) 0 (Vector.replicate 17 0)) (clearParse s)

/-- The step of `PARSE`: the string in `TIN[0..TINLEN-1]` (R240). -/
def unitParse (s : State) : Ending :=
  match inputBytes s with
  | some bytes => parseBytes bytes s
  | none => .stopFault .lengthOutOfRange

/-- `PARSE` (R240). -/
def execParse (s : State) : Host.Outcome State Fault Refusal := (unitParse s).finish

end Sys2Proof.Machine
end

