-- ==== Sys2Proof/Machine/DecimalDigits.lean ====
section
/-! DEFINITION. Unit decimal_digit_decompose: DDD and DACC (40_decimal_digits.md). -/

namespace Sys2Proof.Machine

/-- The number of decimal digits of `n` below 2^64: 1 for 0, otherwise the `L` with 10^(L-1) ≤ n < 10^L, found by counting the
powers of ten that `n` reaches (R131). -/
def decLength (n : Nat) : Nat := max 1 ((List.range 20).countP fun i => 10 ^ i ≤ n)

/-- `d[0..L-1]`: digit `i` is `(n div 10^(L-1-i)) mod 10` (R131). -/
def sigDigits (n : Nat) : List Nat :=
  (List.range (decLength n)).map fun i => n / 10 ^ (decLength n - 1 - i) % 10

/-- The function `ddd`: the 20 cells and the length (R131). -/
def dddOf (n : Nat) : Vector DecDigit 20 × Nat := (decCells (sigDigits n), decLength n)

/-- The step of `DDD`: `ID` to `DEC` and `DLEN` (R130). -/
def unitDdd (s : State) : Ending :=
  .done { s with dec := (dddOf s.id.toNat).1, dlen := BitVec.ofNat 5 (dddOf s.id.toNat).2 }

/-- `DDD` (R130). -/
def execDdd (s : State) : Host.Outcome State Fault Refusal := (unitDdd s).finish

/-- The end of `DACC` for the value `v` of the digits: `IdOverflow` when it is 2^64 or more, with nothing written, else `ID` written
(R135, R295). -/
def storeId (v : Nat) (s : State) : Ending :=
  if Config.idLimit ≤ v then .raised .idOverflow s else .done { s with id := BitVec.ofNat 64 v }

/-- The step of `DACC`: the digits of `DEC[0..DLEN-1]` to `ID` (R135). -/
def unitDacc (s : State) : Ending :=
  match decDigits s with
  | some d => storeId (val 10 d) s
  | none => .stopFault .lengthOutOfRange

/-- `DACC` (R135). -/
def execDacc (s : State) : Host.Outcome State Fault Refusal := (unitDacc s).finish

end Sys2Proof.Machine
end

