-- ==== Sys2Proof/Machine/RadixConverter.lean ====
section
/-! DEFINITION. Unit radix_converter: the conversion by long-division passes, R10T32 and R32T10 (41_radix_converter.md). -/

namespace Sys2Proof.Machine

/-- One division pass over the digits still to read (R152): `acc` is the accumulator, `stored` says that a quotient digit has been
stored already (n > 0). The answer is the quotient digits stored from here on and the final accumulator, which is the emitted digit.
A quotient digit below the first stored one is kept even when it is zero; a leading zero is not stored, so that a zero quotient is
the empty sequence (R153, conflict C9). -/
def passFrom (b1 b2 : Nat) : Nat → Bool → List Nat → List Nat × Nat
  | acc, _, [] => ([], acc)
  | acc, stored, w :: ws =>
    let t := acc * b1 + w
    if b2 ≤ t then
      let r := passFrom b1 b2 (t % b2) true ws
      (t / b2 :: r.1, r.2)
    else if stored then
      let r := passFrom b1 b2 t true ws
      (0 :: r.1, r.2)
    else passFrom b1 b2 t false ws

/-- One division pass: the quotient without leading zeros, and the remainder (R152). -/
def divPass (b1 b2 : Nat) (w : List Nat) : List Nat × Nat := passFrom b1 b2 0 false w

/-- The loop of passes (R151): the emission list `E`, least significant digit first. The body runs before the test, and the loop
stops when the dividend's length is zero. The first argument bounds the number of passes (log 11). -/
def passLoop (b1 b2 : Nat) : Nat → List Nat → List Nat
  | 0, _ => []
  | fuel + 1, w =>
    let r := divPass b1 b2 w
    r.2 :: (if r.1 = [] then [] else passLoop b1 b2 fuel r.1)

/-- A number of passes that a sequence of digits below `b1` never exceeds for `b2 ≥ 2`, since its value is below
`b1^len ≤ 2^(b1*len)` (R156; log 11). -/
def passBound (b1 : Nat) (d : List Nat) : Nat := b1 * d.length + 1

/-- The emission list of a conversion (R151). -/
def emitted (b1 b2 : Nat) (d : List Nat) : List Nat := passLoop b1 b2 (passBound b1 d) d

/-- The conversion `rconv`: the digits in the new base, most significant first, which is the emission list reversed inside the
converter (R154, conflict C6), and the number of passes (R151). -/
def rconv (b1 b2 : Nat) (d : List Nat) : List Nat × Nat := ((emitted b1 b2 d).reverse, (emitted b1 b2 d).length)

/-- The step of `R10T32` for the digits of `DEC` (R160): `CW[k]` is the digit of weight 32^k for k below 13, zero beyond the digits
produced; `PASSES` is their number. A value that needs more than 13 symbols is refused (R162, log 5). -/
def storeSymbols (d : List Nat) (s : State) : Ending :=
  let r := rconv 10 32 d
  if r.2 ≤ 13 then
    .done { s with cw := putData (r.1.reverse.map (BitVec.ofNat 5)) s.cw, passes := BitVec.ofNat 5 r.2 }
  else .stopRefused .decimalTooWide

/-- The step of `R10T32` (R160). -/
def unitR10t32 (s : State) : Ending :=
  match decDigits s with
  | some d => storeSymbols d s
  | none => .stopFault .lengthOutOfRange

/-- `R10T32` (R160). -/
def execR10t32 (s : State) : Host.Outcome State Fault Refusal := (unitR10t32 s).finish

/-- The step of `R32T10` (R165): the 13 data symbols, whatever they hold, to `DEC`, `DLEN` and `PASSES`. -/
def unitR32t10 (s : State) : Ending :=
  let r := rconv 32 10 (dataDigits s)
  .done { s with dec := decCells r.1, dlen := BitVec.ofNat 5 r.2, passes := BitVec.ofNat 5 r.2 }

/-- `R32T10` (R165). -/
def execR32t10 (s : State) : Host.Outcome State Fault Refusal := (unitR32t10 s).finish

end Sys2Proof.Machine
end

