-- ==== Sys2Proof/Machine/Composite.lean ====
section
/-! DEFINITION. The composite commands ENCODE and DECODE: the steps of the unit commands in order inside one command, `STATUS.CODE`
written once (R260 of 45_composite_system_host.md). -/

namespace Sys2Proof.Machine

/-- `ENCODE`: DDD, R10T32, RSENC, FMT (R262). -/
def execEncode (s : State) : Host.Outcome State Fault Refusal :=
  ((((unitDdd s).andThen unitR10t32).andThen unitRsenc).andThen unitFmt).finish

/-- `DECODE`: PARSE, then R32T10, then DACC; a step that raises ends the command (R264). -/
def execDecode (s : State) : Host.Outcome State Fault Refusal :=
  (((unitParse s).andThen unitR32t10).andThen unitDacc).finish

end Sys2Proof.Machine
end

