-- ==== Sys2Proof/Machine/System.lean ====
section
/-! DEFINITION. The system commands NOP and CLR, and the platform's reset (45_composite_system_host.md section 2, R320 of
70_reset_and_hazards.md). -/

namespace Sys2Proof.Machine

/-- `NOP`: it erases the last outcome code and does nothing else (R266). -/
def execNop (s : State) : Host.Outcome State Fault Refusal := (Ending.done s).finish

/-- Every piece of R20's state at its reset value; the model's own two fields, which belong to the host's side, kept (R50, R267,
R320). -/
def resetBlock (s : State) : State := { State.reset with pending := s.pending, response := s.response }

/-- `CLR`: all state to its reset value (R267). -/
def execClr (s : State) : Host.Outcome State Fault Refusal := (Ending.done (resetBlock s)).finish

end Sys2Proof.Machine
end

