-- ==== Sys2Proof/Machine/Dispatch.lean ====
section
/-! DEFINITION. One arm per command (R104 of 30_encoding.md). -/

namespace Sys2Proof.Machine

def exec (i : Instr) (s : State) : Host.Outcome State Fault Refusal :=
  match i with
  | .nop => Sys2Proof.Machine.execNop s
  | .ddd => Sys2Proof.Machine.execDdd s
  | .r10t32 => Sys2Proof.Machine.execR10t32 s
  | .r32t10 => Sys2Proof.Machine.execR32t10 s
  | .dacc => Sys2Proof.Machine.execDacc s
  | .gfmul a b => Sys2Proof.Machine.execGfmul a b s
  | .rsenc => Sys2Proof.Machine.execRsenc s
  | .rschk => Sys2Proof.Machine.execRschk s
  | .fmt => Sys2Proof.Machine.execFmt s
  | .parse => Sys2Proof.Machine.execParse s
  | .encode => Sys2Proof.Machine.execEncode s
  | .decode => Sys2Proof.Machine.execDecode s
  | .clr => Sys2Proof.Machine.execClr s

end Sys2Proof.Machine
end

