-- ==== Sys2Proof/Machine/Bus.lean ====
section
/-! DEFINITION. The host's transactions (R61 to R69 of 20_memory.md) and the platform's reset (R320 of 70_reset_and_hazards.md). -/

namespace Sys2Proof.Machine

/-- A read of a cell: its value zero-extended (R62), none for `CMD`, which is write-only (R68). A read changes nothing (R65). -/
def readCell (c : Cell) (s : State) : Option HostData :=
  match c with
  | .id => some s.id
  | .cmd => none
  | .status => some ((statusWord s).setWidth 64)
  | .dlen => some (s.dlen.setWidth 64)
  | .clen => some (s.clen.setWidth 64)
  | .passes => some (s.passes.setWidth 64)
  | .gp => some (s.gp.setWidth 64)
  | .tinlen => some (s.tinlen.setWidth 64)
  | .toutlen => some (s.toutlen.setWidth 64)
  | .dec i => some (s.dec[i].setWidth 64)
  | .cw i => some (s.cw[i].setWidth 64)
  | .p i => some (s.p[i].setWidth 64)
  | .syn i => some (s.syn[i].setWidth 64)
  | .tout i => some (s.tout[i].setWidth 64)
  | .tin i => some (s.tin[i].setWidth 64)
  | .romExp i => some (expTable[i].setWidth 64)
  | .romLog i => some (logTable[i].setWidth 64)
  | .romMap i => some (BitVec.ofNat 64 mapTable[i].val)
  | .romAlpha i => some (alphaTable[i].setWidth 64)
  | .romGen i => some (genTable[i].setWidth 64)
  | .romPrefix i => some (prefixTable[i].setWidth 64)

/-- The data a host read of an address returns, none where the answer is `err`: an unmapped address, or `CMD` (R62, R68). -/
def hostRead (addr : HostAddr) (s : State) : Option HostData :=
  match cellAt addr with
  | some c => readCell c s
  | none => none

/-- A write of a cell that holds state: that one cell replaced if the data is a legal value of it (R66, R69), none where the answer
is `err`: a read-only cell, or an illegal value (R68, R69). A write to `CMD` is no write of a cell: see `issueWord`. -/
def writeCell (c : Cell) (d : HostData) (s : State) : Option State :=
  match c with
  | .id => some { s with id := d }
  | .cw i => if d.toNat ≤ 31 then some { s with cw := s.cw.set i (d.setWidth 5) } else none
  | .tin i => if d.toNat ≤ 255 then some { s with tin := s.tin.set i (d.setWidth 8) } else none
  | .tinlen => if d.toNat ≤ Config.tinCap then some { s with tinlen := d.setWidth 7 } else none
  | .cmd => none
  | .status => none
  | .dlen => none
  | .clen => none
  | .passes => none
  | .gp => none
  | .toutlen => none
  | .dec _ => none
  | .p _ => none
  | .syn _ => none
  | .tout _ => none
  | .romExp _ => none
  | .romLog _ => none
  | .romMap _ => none
  | .romAlpha _ => none
  | .romGen _ => none
  | .romPrefix _ => none

/-- The answer of a transaction recorded for the host (R61; log 2). -/
def answer (r : Response) (s : State) : State := { s with response := some r }

/-- The issue of a command word: it is decoded and executed once, to completion; a word that is no command takes the outcome
`IllegalCommand`, with which `STATUS.CODE` changes and nothing else (R100, R110, R296). -/
def issueWord (w : CmdWord) (s : State) : Host.Outcome State Fault Refusal :=
  match decode w with
  | .command i => exec i s
  | .illegal _ => .next (endWith .illegalCommand s)

/-- A read transaction (R61, R65). -/
def doRead (addr : HostAddr) (s : State) : State :=
  match hostRead addr s with
  | some d => answer (.okData d) s
  | none => answer .err s

/-- A write transaction (R61, R66 to R69). A write to `CMD` with a value below 2^16 is answered `ok` whatever the command's outcome
(R67): the answer is recorded with the issue, which is one step with the command (R84). -/
def doWrite (addr : HostAddr) (d : HostData) (s : State) : Host.Outcome State Fault Refusal :=
  match cellAt addr with
  | none => .next (answer .err s)
  | some .cmd => if d.toNat ≤ 65535 then issueWord (d.setWidth 16) (answer .ok s) else .next (answer .err s)
  | some c =>
    match writeCell c d s with
    | some t => .next (answer .ok t)
    | none => .next (answer .err s)

/-- The platform's reset: the state becomes the reset state, with no answer outstanding (R320, log 4). -/
def doReset (s : State) : State := { resetBlock s with response := none }

/-- One event of the outside world (R61, R82, R320). -/
def doEvent (e : HostEvent) (s : State) : Host.Outcome State Fault Refusal :=
  match e with
  | .rd addr => .next (doRead addr s)
  | .wr addr d => doWrite addr d s
  | .reset => .next (doReset s)

end Sys2Proof.Machine
end

