-- ==== Sys2Proof/Machine/Step.lean ====
section
/-! DEFINITION. One step: the next event of the host's stream (R82 of 20_memory.md; log 1). -/

namespace Sys2Proof.Machine

/-- One step takes the oldest event of the host's stream and performs it, whole, before the next (R82, R83, R84). With no event
waiting nothing happens: the block does nothing on its own (R304, R310; log 3). -/
def step (s : State) : Host.Outcome State Fault Refusal :=
  match s.pending with
  | [] => .next s
  | e :: rest => doEvent e { s with pending := rest }

/-- `s` with the command word made of the low `nbits` bits of `w` issued next: a write transaction to `CMD` put at the head of the
host's stream (R100, log 1). -/
def State.withFetchWord (s : State) (nbits w : Nat) : State :=
  { s with pending := .wr 0x001 (BitVec.ofNat 64 (w % 2 ^ nbits)) :: s.pending }

end Sys2Proof.Machine
end

