-- ==== Sys2Proof/Machine/HostAssembly.lean ====
section
/-! DEFINITION. The host assembly of R118 and R119 (30_encoding.md) and the primitives of R12 (00_scope.md), as the events they
stand for. -/

namespace Sys2Proof.Machine

/-- The `n` consecutive read transactions of `MemRead(addr, n)`, in order (R12). DESIGN CHOICE (log 15): a range that runs past
0xFFF, to whose further addresses the spec gives no meaning (R60, R64), goes on at 0x000. -/
def memRead (addr n : Nat) : List HostEvent := (List.range n).map fun k => .rd (BitVec.ofNat 12 (addr + k))

/-- The consecutive write transactions of `MemWrite(addr, n, v)`, in order (R12). DESIGN CHOICE (log 15): a range that runs past
0xFFF, to whose further addresses the spec gives no meaning (R60, R64), goes on at 0x000. -/
def memWrite (addr : Nat) (v : List HostData) : List HostEvent :=
  v.mapIdx fun k d => .wr (BitVec.ofNat 12 (addr + k)) d

/-- The issue of a command: `WR CMD, word` (R118). -/
def issueEvent (i : Instr) : HostEvent := .wr (addrOf .cmd) ((encode i).setWidth 64)

/-- The events a statement of the host assembly stands for (R118, R119). -/
def expand : HostStatement → List HostEvent
  | .wr c v => [.wr (addrOf c) v]
  | .rd c => [.rd (addrOf c)]
  | .wrAddr a v => [.wr a v]
  | .rdAddr a => [.rd a]
  | .cmd i => [issueEvent i]
  | .ldid n => [.wr (addrOf .id) n]
  | .ldcw c => memWrite 0x200 (c.toList.map (BitVec.setWidth 64))
  | .lddata d => memWrite 0x200 (d.toList.map (BitVec.setWidth 64))
  | .ldstr text => memWrite 0x500 (text.map (BitVec.setWidth 64)) ++ [.wr (addrOf .tinlen) (BitVec.ofNat 64 text.length)]
  | .rdid => [.rd (addrOf .id)]
  | .rdcw => memRead 0x200 17
  | .rddec => .rd (addrOf .dlen) :: memRead 0x100 20
  | .rdstr => .rd (addrOf .toutlen) :: memRead 0x400 26
  | .rdst => [.rd (addrOf .status)]

/-- A host program as the stream of its events (R118). -/
def expandAll (program : List HostStatement) : List HostEvent := program.flatMap expand

end Sys2Proof.Machine
end

