-- ==== Sys2Proof/Safety.lean ====
section
/-! DEFINITION. The terms claims are made in: the legal ranges of R20 and the invariant of R24 (10_state.md), and a run that never
stops (R298 of 60_exceptions.md, R331 of 70_reset_and_hazards.md). -/

namespace Sys2Proof.Machine

/-- `DEC[0..DLEN-1]` as numbers, for any `DLEN` (R22). -/
def State.decimal (s : State) : List Nat := (s.dec.toList.take s.dlen.toNat).map BitVec.toNat

/-- The value of the decimal digits in `DEC`: `val_10(DEC[0..DLEN-1])` (R24, R135). -/
def State.decValue (s : State) : Nat := val 10 s.decimal

/-- The value of the data symbols of a codeword: the sum of `CW[k] * 32^k` for k = 0 to 12 (R26). -/
def symbolsValue (cw : Vector Symbol 17) : Nat := ((List.finRange 13).map fun k => (cw[k.val]).toNat * 32 ^ k.val).sum

/-- Every piece of R20's state has the value of its reset column (R50). -/
structure State.HasResetValues (s : State) : Prop where
  id : s.id = 0
  dec : ∀ i : Fin 20, s.dec[i] = 0
  dlen : s.dlen = 1
  cw : ∀ i : Fin 17, s.cw[i] = 0
  clen : s.clen = 0
  p : ∀ i : Fin 4, s.p[i] = 0
  syn : ∀ i : Fin 4, s.syn[i] = 0
  gp : s.gp = 0
  passes : s.passes = 0
  tin : ∀ i : Fin 64, s.tin[i] = 0
  tinlen : s.tinlen = 0
  tout : ∀ i : Fin 26, s.tout[i] = 0
  toutlen : s.toutlen = 0
  code : s.code = 0
  valid : s.valid = false

/-- The legal values of R20 that a cell's width does not already give. -/
structure State.LegalRanges (s : State) : Prop where
  /-- `CLEN` is 0 to 17 (R27). -/
  clen : s.clen.toNat ≤ 17
  /-- `PASSES` is 0 to 20 (R31). -/
  passes : s.passes.toNat ≤ 20
  /-- `TINLEN` is 0 to `TIN_CAP` (R33). -/
  tinlen : s.tinlen.toNat ≤ Config.tinCap
  /-- `TOUTLEN` is 0 or 26 (R35). -/
  toutlen : s.toutlen = 0 ∨ s.toutlen = 26
  /-- `STATUS.CODE` is 0 to 4 (R41). -/
  code : s.code.toNat ≤ 4

/-- The invariant of `DEC` and `DLEN` (R24). -/
structure State.DecimalForm (s : State) : Prop where
  /-- (a) -/
  length : 1 ≤ s.dlen.toNat ∧ s.dlen.toNat ≤ 20
  /-- (b) -/
  digits : ∀ i : Fin 20, (s.dec[i]).toNat ≤ 9
  /-- (c) -/
  padding : ∀ i : Fin 20, s.dlen.toNat ≤ i.val → s.dec[i] = 0
  /-- (d) -/
  leading : s.dlen.toNat = 1 ∨ s.dec[0] ≠ 0
  /-- (e) -/
  bound : s.decValue < 2 ^ 65

/-- What every step keeps: R20's legal values and R24. -/
structure State.Inv (s : State) : Prop where
  ranges : s.LegalRanges
  decimal : s.DecimalForm

/-- `VALID` set means that the syndromes of that validation, still in `SYN`, are all zero (R42, R29). -/
def State.ValidMeansZero (s : State) : Prop := s.valid = true → s.syn = Vector.replicate 4 0

/-- A run that never stops: any number of steps answers a next state (R298, R331). -/
def State.RunsOn (s : State) : Prop := ∀ k : Nat, ∃ t : State, Sys2Proof.core.run k s = .next t

/-- The addresses of the map of R63, written out from its rows. -/
def mappedAddr (a : Nat) : Bool :=
  a ≤ 0x008 || (0x100 ≤ a && a ≤ 0x113) || (0x200 ≤ a && a ≤ 0x210) || (0x300 ≤ a && a ≤ 0x303) ||
  (0x310 ≤ a && a ≤ 0x313) || (0x400 ≤ a && a ≤ 0x419) || (0x500 ≤ a && a ≤ 0x53F) || (0x800 ≤ a && a ≤ 0x850) ||
  (0x860 ≤ a && a ≤ 0x883) || (0x890 ≤ a && a ≤ 0x895)

/-- A host write of `d` at `a` that is accepted and is no issue of a command: the cells marked RW in R63 with the limits of R69. -/
def acceptedWrite (a d : Nat) : Bool :=
  a = 0x000 || (a = 0x007 && d ≤ Config.tinCap) || (0x200 ≤ a && a ≤ 0x210 && d ≤ 31) || (0x500 ≤ a && a ≤ 0x53F && d ≤ 255)

/-- The host addresses a command may write, from the "Operands" part of its rule: R266, R130, R160, R165, R135, R183, R203, R212,
R232, R240, R262, R264, R267. Every command writes `STATUS`. -/
def writesAddr (i : Instr) (a : Nat) : Bool :=
  let status := a = 0x002
  let id := a = 0x000
  let dec := a = 0x003 || (0x100 ≤ a && a ≤ 0x113)
  let clen := a = 0x004
  let passes := a = 0x005
  let data := 0x200 ≤ a && a ≤ 0x20C
  let parity := 0x20D ≤ a && a ≤ 0x210
  let acc := 0x300 ≤ a && a ≤ 0x303
  let syn := 0x310 ≤ a && a ≤ 0x313
  let tout := a = 0x008 || (0x400 ≤ a && a ≤ 0x419)
  match i with
  | .nop => status
  | .ddd => status || dec
  | .r10t32 => status || data || passes
  | .r32t10 => status || dec || passes
  | .dacc => status || id
  | .gfmul _ _ => status || a = 0x006
  | .rsenc => status || acc || parity
  | .rschk => status || syn
  | .fmt => status || tout
  | .parse => status || data || parity || clen || syn
  | .encode => status || dec || data || parity || passes || acc || tout
  | .decode => status || data || parity || clen || syn || dec || passes || id
  | .clr => a < 0x800

/-- Multiplication in GF(32) without tables: 5-bit polynomials over GF(2) modulo x^5 + x^2 + 1, one bit of `b` at a time, `a`
shifted and reduced between (R181). -/
def gmulPolyFrom : Nat → Nat → Nat → Nat → Nat
  | 0, r, _, _ => r
  | n + 1, r, a, b =>
    gmulPolyFrom n (if b % 2 = 1 then r ^^^ a else r) (if 32 ≤ a * 2 then (a * 2) ^^^ 0b100101 else a * 2) (b / 2)

/-- `gmul_poly(a, b)` (R181). -/
def gmulPoly (a b : Symbol) : Symbol := BitVec.ofNat 5 (gmulPolyFrom 5 0 a.toNat b.toNat)

/-- `rsenc(u_k)` for the thirteen unit vectors, the columns of R206's table. For k = 1 and slot 3 the table prints 4, which
contradicts R201 and R202 (and R204): they give 6 ^ gmul(30, 30) = 21, the entry here (log 9). -/
def unitParity : Vector (Vector Symbol 4) 13 :=
  #v[#v[17, 9, 6, 30], #v[8, 4, 7, 21], #v[2, 4, 21, 24], #v[1, 4, 30, 8], #v[28, 3, 17, 21], #v[2, 16, 18, 14], #v[21, 19, 17, 23],
    #v[5, 11, 14, 23], #v[5, 27, 22, 8], #v[28, 7, 14, 29], #v[30, 18, 3, 26], #v[6, 10, 4, 7], #v[24, 28, 24, 20]]

/-- Syndrome `i` as the double loop of R211 has it: positions 0 to 30, 13 to 26 skipped, the index corrected by 14 beyond 26. -/
def loopSyndrome (cw : Vector Symbol 17) (i : Nat) : Symbol :=
  (List.range 31).foldl
    (fun t j =>
      if 13 ≤ j ∧ j ≤ 26 then t
      else t ^^^ gmul (cw.toList.getD (if 26 < j then j - 14 else j) 0) (expTable.toList.getD ((i * j) % 31) 0))
    0

/-- The four syndromes of a codeword (R211). -/
def loopSyndromes (cw : Vector Symbol 17) : Vector Symbol 4 :=
  #v[loopSyndrome cw 1, loopSyndrome cw 2, loopSyndrome cw 3, loopSyndrome cw 4]

/-- `valid(c)`: the four syndromes are zero (R211). -/
def ValidCodeword (cw : Vector Symbol 17) : Prop := loopSyndromes cw = Vector.replicate 4 0

/-- The number of the 17 places in which two codewords differ (R216). -/
def placesChanged (cw cw' : Vector Symbol 17) : Nat := (List.finRange 17).countP fun k => cw[k.val] != cw'[k.val]

/-- The byte index of the `i`-th character, `tpos(i) = 6 + i + min(i div 4, 3)` (R116). -/
def tpos (i : Fin 17) : Fin 26 := ⟨6 + i.val + min (i.val / 4) 3, by omega⟩

/-- `t` is the canonical text form of the codeword `cw`: the bytes of `BURST-`, the 17 characters at `tpos`, the dashes
(R116, R231). -/
def IsTextOf (t : Vector TextByte 26) (cw : Vector Symbol 17) : Prop :=
  t[0] = 0x42 ∧ t[1] = 0x55 ∧ t[2] = 0x52 ∧ t[3] = 0x53 ∧ t[4] = 0x54 ∧ t[5] = 0x2D ∧
  (∀ i : Fin 17, t[tpos i] = alphaTable[(cw[mapTable[i]]).toNat]'(cw[mapTable[i]]).isLt) ∧
  t[10] = 0x2D ∧ t[15] = 0x2D ∧ t[20] = 0x2D

/-- The symbols of a string that `PARSE` accepts, in order: those of the alphabet bytes after the prefix, the rest skipped
(R241, R243). -/
def acceptedSymbols (bytes : List TextByte) : List Symbol :=
  (if bytes.take 6 = [0x42, 0x55, 0x52, 0x53, 0x54, 0x2D] then bytes.drop 6 else bytes).filterMap aidx

/-- The input string `TIN[0..TINLEN-1]`, for any `TINLEN` (R32). -/
def State.inputString (s : State) : List TextByte := s.tin.toList.take s.tinlen.toNat

/-- The first symbols of a list at their permuted places, `CW[MAP[n]]`, and zero in every other cell (R245, R246). -/
def IsPlacement (syms : List Symbol) (cw : Vector Symbol 17) : Prop :=
  ∀ n : Fin 17, cw[mapTable[n]] = syms.getD n.val 0

/-- What a host does between `ENCODE` or `FMT` and `DECODE` or `PARSE`: `TOUT[0..25]` copied to `TIN[0..25]`, `TINLEN` written
with 26 (R247, R265). -/
def copyToutToTin (s : State) : State :=
  { s with tin := Vector.ofFn (fun k => if h : k.val < 26 then s.tout[k.val] else s.tin[k.val]), tinlen := 26 }

end Sys2Proof.Machine
end

