-- ==== Sys2Proof/WellFormed.lean ====
section
/-! DEFINITION. Which command words are legal, format by format (R102, R103, R106 of 30_encoding.md), and which host assembly
statements are (R119). A command as syntax has nothing to check: every 5-bit value is a legal operand of `GFMUL` (R105) and no other
command has an operand, so an `Instr` is well formed by its type. -/

namespace Sys2Proof

/-- Every command is well formed (R105). -/
def Instr.wf : Instr → Bool
  | .nop => true
  | .ddd => true
  | .r10t32 => true
  | .r32t10 => true
  | .dacc => true
  | .gfmul _ _ => true
  | .rsenc => true
  | .rschk => true
  | .fmt => true
  | .parse => true
  | .encode => true
  | .decode => true
  | .clr => true

/-- A legal word of format Z: an opcode 0 to 12 other than 5, and bits 11:0 zero (R102, R106). -/
def CmdWord.legalZ (w : CmdWord) : Bool :=
  w.toNat / 4096 ≤ 12 && w.toNat / 4096 ≠ 5 && w.toNat % 4096 = 0

/-- A legal word of format G: opcode 5, and bits 11:10 zero (R103, R106). -/
def CmdWord.legalG (w : CmdWord) : Bool :=
  w.toNat / 4096 = 5 && w.toNat / 1024 % 4 = 0

/-- A word that is a command: one of the 1036 legal words of R106. -/
def CmdWord.legal (w : CmdWord) : Bool :=
  CmdWord.legalZ w || CmdWord.legalG w

/-- The one check of the host assembly: the string of `LDSTR` fits the input buffer (R119). -/
def HostStatement.wf : HostStatement → Bool
  | .ldstr text => text.length ≤ Config.tinCap
  | .wr _ _ => true
  | .rd _ => true
  | .wrAddr _ _ => true
  | .rdAddr _ => true
  | .cmd i => i.wf
  | .ldid _ => true
  | .ldcw _ => true
  | .lddata _ => true
  | .rdid => true
  | .rdcw => true
  | .rddec => true
  | .rdstr => true
  | .rdst => true

end Sys2Proof
end

