-- ==== Sys2Proof/Certificates/Slice0/Obligations.lean ====
section
/-! DEFINITION. The statements for the provers. The terms they are made in stand in Sys2Proof/Safety.lean. -/

open Sys2Proof Sys2Proof.Machine

/-! ### Reset, legality and stops -/

/-- R50: after reset, and after `CLR`, every piece of R20's state has its reset value. -/
def Obligations.ResetAndClrLeaveTheStatedValues : Prop :=
  State.reset.HasResetValues ∧ ∀ s : State, ∃ t : State, exec .clr s = .next t ∧ t.HasResetValues

/-- R323: the reset state has R20's legal values and satisfies R24. -/
def Obligations.ResetSatisfiesTheInvariant : Prop :=
  State.reset.Inv

/-- R20's legal values and R24 are kept by every step from every state that has them, whatever the event. -/
def Obligations.EveryStepKeepsTheInvariant : Prop :=
  ∀ s t : State, s.Inv → step s = .next t → t.Inv

/-- R298, R331: a run from a state with the invariant never stops, whatever the host's stream. -/
def Obligations.NoRunFromALegalStateStops : Prop :=
  ∀ s : State, s.Inv → s.RunsOn

/-- R294, R301, R324: every command answers a next state from every state whose lengths bound their buffers and whose `DEC` value
fits 13 symbols (R162). -/
def Obligations.CommandsCompleteInEveryLegalState : Prop :=
  ∀ (i : Instr) (s : State), s.dlen.toNat ≤ 20 → s.tinlen.toNat ≤ Config.tinCap → s.decValue < 2 ^ 65 →
    ∃ t : State, exec i s = .next t

/-- The model's two stops, in states no run reaches: log 6 (a length that bounds no buffer) and log 5 (the refusal that R162 asks
for). They are the model's choice, not rules of the spec. -/
def Obligations.StopsStandOutsideTheLegalStates : Prop :=
  (∀ s : State, 20 < s.dlen.toNat →
    exec .r10t32 s = .fault .lengthOutOfRange ∧ exec .dacc s = .fault .lengthOutOfRange) ∧
  (∀ s : State, Config.tinCap < s.tinlen.toNat →
    exec .parse s = .fault .lengthOutOfRange ∧ exec .decode s = .fault .lengthOutOfRange) ∧
  (∀ s : State, s.dlen.toNat ≤ 20 → 2 ^ 65 ≤ s.decValue → exec .r10t32 s = .refused .decimalTooWide)

/-! ### The host's transactions -/

/-- R100, R67: a write of a command word to `CMD` runs the command it decodes to, and is answered `ok`. What the step adds around
`exec` is the event taken from the stream and the answer. -/
def Obligations.StepRunsTheDecodedCommand : Prop :=
  ∀ (s : State) (rest : List HostEvent) (d : HostData) (i : Instr),
    s.pending = .wr 0x001 d :: rest → d.toNat ≤ 65535 → decode (d.setWidth 16) = .command i →
    step s = exec i { s with pending := rest, response := some .ok }

/-- R110, R296: a word in range that is not one of the legal words of R102, R103 and R106 leaves `STATUS.CODE = 4` and changes
nothing else of the block; the write is answered `ok` (R67). -/
def Obligations.IllegalWordOnlyWritesTheCode : Prop :=
  ∀ (s : State) (rest : List HostEvent) (d : HostData),
    s.pending = .wr 0x001 d :: rest → d.toNat ≤ 65535 → CmdWord.legal (d.setWidth 16) = false →
    step s = .next { s with pending := rest, response := some .ok, code := 4 }

/-- R65, R61: a read transaction answers what the address reads as, or `err`, and changes nothing. -/
def Obligations.ReadTransactionOnlyAnswers : Prop :=
  ∀ (s : State) (rest : List HostEvent) (a : HostAddr), s.pending = .rd a :: rest →
    (∀ d, hostRead a s = some d → step s = .next { s with pending := rest, response := some (.okData d) }) ∧
    (hostRead a s = none → step s = .next { s with pending := rest, response := some .err })

/-- R62, R63: the address map, each cell read whole and zero-extended at its address; `CMD` and every unmapped address read `err`;
each address names at most one cell (R60). -/
def Obligations.HostReadsFollowTheAddressMap : Prop :=
  (∀ s : State,
    hostRead 0x000 s = some s.id ∧ hostRead 0x001 s = none ∧
    hostRead 0x002 s = some ((BitVec.ofBool s.valid ++ s.code).setWidth 64) ∧
    hostRead 0x003 s = some (s.dlen.setWidth 64) ∧ hostRead 0x004 s = some (s.clen.setWidth 64) ∧
    hostRead 0x005 s = some (s.passes.setWidth 64) ∧ hostRead 0x006 s = some (s.gp.setWidth 64) ∧
    hostRead 0x007 s = some (s.tinlen.setWidth 64) ∧ hostRead 0x008 s = some (s.toutlen.setWidth 64) ∧
    (∀ i : Fin 20, hostRead (BitVec.ofNat 12 (0x100 + i.val)) s = some ((s.dec[i]).setWidth 64)) ∧
    (∀ i : Fin 17, hostRead (BitVec.ofNat 12 (0x200 + i.val)) s = some ((s.cw[i]).setWidth 64)) ∧
    (∀ i : Fin 4, hostRead (BitVec.ofNat 12 (0x300 + i.val)) s = some ((s.p[i]).setWidth 64)) ∧
    (∀ i : Fin 4, hostRead (BitVec.ofNat 12 (0x310 + i.val)) s = some ((s.syn[i]).setWidth 64)) ∧
    (∀ i : Fin 26, hostRead (BitVec.ofNat 12 (0x400 + i.val)) s = some ((s.tout[i]).setWidth 64)) ∧
    (∀ i : Fin 64, hostRead (BitVec.ofNat 12 (0x500 + i.val)) s = some ((s.tin[i]).setWidth 64)) ∧
    (∀ i : Fin 32, hostRead (BitVec.ofNat 12 (0x800 + i.val)) s = some ((expTable[i]).setWidth 64)) ∧
    (∀ i : Fin 32, hostRead (BitVec.ofNat 12 (0x820 + i.val)) s = some ((logTable[i]).setWidth 64)) ∧
    (∀ i : Fin 17, hostRead (BitVec.ofNat 12 (0x840 + i.val)) s = some (BitVec.ofNat 64 (mapTable[i]).val)) ∧
    (∀ i : Fin 32, hostRead (BitVec.ofNat 12 (0x860 + i.val)) s = some ((alphaTable[i]).setWidth 64)) ∧
    (∀ i : Fin 4, hostRead (BitVec.ofNat 12 (0x880 + i.val)) s = some ((genTable[i]).setWidth 64)) ∧
    (∀ i : Fin 6, hostRead (BitVec.ofNat 12 (0x890 + i.val)) s = some ((prefixTable[i]).setWidth 64)) ∧
    (∀ a : HostAddr, mappedAddr a.toNat = false → hostRead a s = none)) ∧
  (∀ c : Cell, cellAt (addrOf c) = some c) ∧ (∀ (a : HostAddr) (c : Cell), cellAt a = some c → addrOf c = a)

/-- R66: a write with a legal value to `ID`, `CW[i]`, `TIN[i]` or `TINLEN` replaces that one cell; every other address, `STATUS`
among them, reads as before. -/
def Obligations.AcceptedWriteReplacesOneCell : Prop :=
  ∀ (s : State) (rest : List HostEvent) (a : HostAddr) (d : HostData),
    s.pending = .wr a d :: rest → acceptedWrite a.toNat d.toNat = true →
    ∃ t : State, step s = .next t ∧ t.pending = rest ∧ t.response = some .ok ∧ hostRead a t = some d ∧
      ∀ b : HostAddr, b ≠ a → hostRead b t = hostRead b s

/-- R68, R69, R299: every other write, and a read of `CMD` or of an unmapped address, is answered `err` and changes no state. -/
def Obligations.RefusedTransactionChangesNothing : Prop :=
  (∀ (s : State) (rest : List HostEvent) (a : HostAddr) (d : HostData),
    s.pending = .wr a d :: rest → acceptedWrite a.toNat d.toNat = false → ¬ (a = 0x001 ∧ d.toNat ≤ 65535) →
    step s = .next { s with pending := rest, response := some .err }) ∧
  (∀ (s : State) (rest : List HostEvent) (a : HostAddr),
    s.pending = .rd a :: rest → (a = 0x001 ∨ mappedAddr a.toNat = false) →
    step s = .next { s with pending := rest, response := some .err })

/-- R320: a reset between transactions replaces the state by the reset state. What remains of the host's stream remains (log 4). -/
def Obligations.ResetEventGivesTheResetState : Prop :=
  ∀ (s : State) (rest : List HostEvent), s.pending = .reset :: rest → step s = .next { State.reset with pending := rest }

/-- R73, R80: the table cells read the same in every state; EXP lists each of 1 to 31 once, LOG inverts it, MAP is a permutation and
its own inverse, the 32 alphabet bytes are distinct. -/
def Obligations.TablesAreConstantAndConsistent : Prop :=
  (∀ (s t : State) (a : HostAddr), 0x800 ≤ a.toNat → hostRead a s = hostRead a t) ∧
  (∀ a : Symbol, a ≠ 0 → expTable[(logTable[a.toNat]'a.isLt).toNat]'(BitVec.isLt _) = a) ∧
  (∀ i : Fin 31, logTable[(expTable[i.val]).toNat]'(expTable[i.val]).isLt = BitVec.ofNat 5 i.val ∧ expTable[i.val] ≠ 0) ∧
  (∀ i : Fin 17, mapTable[mapTable[i]] = i) ∧
  (∀ v w : Fin 32, alphaTable[v] = alphaTable[w] → v = w)

/-! ### Encoding -/

/-- R104, R106: decoding the word of a well-formed command gives that command, at every value of `GFMUL`'s operands. -/
def Obligations.DecodeInvertsEncode : Prop :=
  ∀ i : Instr, i.wf = true → decode (encode i) = .command i

/-- R106, R110: a word decodes to a command exactly when it is legal by its format, and then it is that command's own word. -/
def Obligations.DecodeAcceptsExactlyTheLegalWords : Prop :=
  (∀ (w : CmdWord) (i : Instr), decode w = .command i → encode i = w) ∧
  (∀ w : CmdWord, (∃ i : Instr, decode w = .command i) ↔ CmdWord.legal w = true)

/-- R102 to R104: words written out from the opcode map, and some that are reserved. -/
def Obligations.SampleWordsDecodeAsTheMapSays : Prop :=
  decode 0b0000000000000000 = .command .nop ∧ decode 0b0001000000000000 = .command .ddd ∧
  decode 0b0010000000000000 = .command .r10t32 ∧ decode 0b0100000000000000 = .command .dacc ∧
  decode 0b0101001000101001 = .command (.gfmul 17 9) ∧ decode 0b0110000000000000 = .command .rsenc ∧
  decode 0b0111000000000000 = .command .rschk ∧ decode 0b1000000000000000 = .command .fmt ∧
  decode 0b1001000000000000 = .command .parse ∧ decode 0b1011000000000000 = .command .decode ∧
  decode 0b1101000000000000 = .illegal .reservedOpcode ∧ decode 0b0101010000000000 = .illegal .mbzOfFormatG ∧
  decode 0b0001000000000001 = .illegal .mbzOfFormatZ

/-- R118: a mnemonic line of the host assembly, issued, runs its command. -/
def Obligations.MnemonicLineRunsItsCommand : Prop :=
  ∀ (i : Instr) (s : State) (rest : List HostEvent), s.pending = expand (.cmd i) ++ rest →
    step s = exec i { s with pending := rest, response := some .ok }

/-! ### System commands -/

/-- R266. -/
def Obligations.NopOnlyWritesTheCode : Prop :=
  decode 0x0000 = .command .nop ∧ ∀ s : State, exec .nop s = .next { s with code := 0 }

/-- R267: the state after `CLR` is the state after reset; the model's two fields for the host stay (log 1, log 2). -/
def Obligations.ClrRestoresTheResetState : Prop :=
  decode 0xC000 = .command .clr ∧
  ∀ s : State, exec .clr s = .next { State.reset with pending := s.pending, response := s.response }

/-! ### Decimal digits -/

/-- R130, R131. -/
def Obligations.DddWritesTheDecimalDigits : Prop :=
  decode 0x1000 = .command .ddd ∧
  ∀ s : State, ∃ t : State, exec .ddd s = .next t ∧ t = { s with dec := t.dec, dlen := t.dlen, code := 0 } ∧
    1 ≤ t.dlen.toNat ∧ t.dlen.toNat ≤ 20 ∧ (s.id = 0 → t.dlen = 1) ∧
    (s.id ≠ 0 → 10 ^ (t.dlen.toNat - 1) ≤ s.id.toNat ∧ s.id.toNat < 10 ^ t.dlen.toNat) ∧
    ∀ i : Fin 20, (t.dec[i]).toNat =
      if i.val < t.dlen.toNat then s.id.toNat / 10 ^ (t.dlen.toNat - 1 - i.val) % 10 else 0

/-- R135: `DACC` stores the value of the digits when it is below 2^64, and otherwise raises `IdOverflow` with nothing else written. -/
def Obligations.DaccStoresTheValueOrOverflows : Prop :=
  decode 0x4000 = .command .dacc ∧
  (∀ s : State, s.dlen.toNat ≤ 20 → s.decValue < 2 ^ 64 →
    exec .dacc s = .next { s with id := BitVec.ofNat 64 s.decValue, code := 0 }) ∧
  (∀ s : State, s.dlen.toNat ≤ 20 → 2 ^ 64 ≤ s.decValue → exec .dacc s = .next { s with code := 3 })

/-- R137: `DDD`, then any value written to `ID`, then `DACC`, gives back the number decomposed. -/
def Obligations.DaccAfterDddRestoresId : Prop :=
  ∀ (s : State) (x : BitVec 64), ∃ t : State, exec .ddd s = .next t ∧
    exec .dacc { t with id := x } = .next { t with id := s.id }

/-! ### Radix converter -/

/-- R153: a pass leaves the remainder and the quotient, with no leading zero, and the empty sequence exactly for a zero quotient. -/
def Obligations.PassDividesByTheBase : Prop :=
  ∀ (b1 b2 : Nat) (w : List Nat), 1 ≤ b2 → (∀ x ∈ w, x < b1) →
    (divPass b1 b2 w).2 = val b1 w % b2 ∧ val b1 (divPass b1 b2 w).1 = val b1 w / b2 ∧
    (divPass b1 b2 w).1.head? ≠ some 0 ∧ (∀ x ∈ (divPass b1 b2 w).1, x < b1) ∧
    ((divPass b1 b2 w).1 = [] ↔ val b1 w < b2)

/-- R155: the conversion preserves the value, for all bases and sequences of any length. -/
def Obligations.ConversionPreservesTheValue : Prop :=
  ∀ (b1 b2 : Nat) (d : List Nat), 2 ≤ b1 → 2 ≤ b2 → (∀ x ∈ d, x < b1) →
    val b2 (rconv b1 b2 d).1 = val b1 d ∧ (∀ x ∈ (rconv b1 b2 d).1, x < b2) ∧
    (rconv b1 b2 d).2 = (rconv b1 b2 d).1.length ∧
    (val b1 d = 0 → (rconv b1 b2 d).1 = [0]) ∧
    (val b1 d ≠ 0 → b2 ^ ((rconv b1 b2 d).2 - 1) ≤ val b1 d ∧ val b1 d < b2 ^ (rconv b1 b2 d).2) ∧
    ∀ k, k < (rconv b1 b2 d).2 → (rconv b1 b2 d).1.reverse.getD k 0 = val b1 d / b2 ^ k % b2

/-- R158: an all-zero input of any length, the empty one too, gives one zero digit in one pass. -/
def Obligations.AllZeroInputTakesOnePass : Prop :=
  ∀ b1 b2 n : Nat, 1 ≤ b2 → rconv b1 b2 (List.replicate n 0) = ([0], 1)

/-- R160, R161: `R10T32` leaves the data symbols with the value of the digits, the parity cells as they were, and in `PASSES` the
number of base-32 digits. -/
def Obligations.R10t32ConvertsTheDigitsToSymbols : Prop :=
  decode 0x2000 = .command .r10t32 ∧
  ∀ s : State, s.dlen.toNat ≤ 20 → s.decValue < 2 ^ 65 →
    ∃ t : State, exec .r10t32 s = .next t ∧ t = { s with cw := t.cw, passes := t.passes, code := 0 } ∧
      (∀ k : Fin 17, 13 ≤ k.val → t.cw[k] = s.cw[k]) ∧ symbolsValue t.cw = s.decValue ∧
      (s.decValue = 0 → t.passes = 1) ∧
      (s.decValue ≠ 0 → 1 ≤ t.passes.toNat ∧ 32 ^ (t.passes.toNat - 1) ≤ s.decValue ∧ s.decValue < 32 ^ t.passes.toNat)

/-- R165, R166, R167: `R32T10` leaves in `DEC` and `DLEN` the canonical decimal form of the value of the data symbols, and in
`PASSES` the number of its digits. -/
def Obligations.R32t10ConvertsTheSymbolsToDigits : Prop :=
  decode 0x3000 = .command .r32t10 ∧
  ∀ s : State, ∃ t : State, exec .r32t10 s = .next t ∧
    t = { s with dec := t.dec, dlen := t.dlen, passes := t.passes, code := 0 } ∧
    t.DecimalForm ∧ t.decValue = symbolsValue s.cw ∧ t.passes = t.dlen

/-- R168: each conversion undoes the other. -/
def Obligations.ConversionsUndoEachOther : Prop :=
  (∀ s : State, s.DecimalForm → ∃ t u : State, exec .r10t32 s = .next t ∧ exec .r32t10 t = .next u ∧
    u.dec = s.dec ∧ u.dlen = s.dlen) ∧
  (∀ s : State, ∃ t u : State, exec .r32t10 s = .next t ∧ exec .r10t32 t = .next u ∧ u.cw = s.cw)

/-! ### The field -/

/-- R180, R183. -/
def Obligations.GfmulMultipliesByTheTables : Prop :=
  ∀ (a b : Symbol) (s : State), decode (BitVec.ofNat 16 (0x5000 + 32 * a.toNat + b.toNat)) = .command (.gfmul a b) ∧
    exec (.gfmul a b) s = .next { s with
      gp := if a = 0 ∨ b = 0 then 0
        else expTable[((logTable[a.toNat]'a.isLt).toNat + (logTable[b.toNat]'b.isLt).toNat) % 31]'(by omega)
      code := 0 }

/-- R181: the product by the tables is the product of polynomials modulo x^5 + x^2 + 1. -/
def Obligations.TableProductIsPolynomialProduct : Prop :=
  ∀ a b : Symbol, gmul a b = gmulPoly a b

/-- R182: the laws of the field. -/
def Obligations.FieldLawsHold : Prop :=
  (∀ a b : Symbol, gmul a b = gmul b a) ∧ (∀ a b c : Symbol, gmul (gmul a b) c = gmul a (gmul b c)) ∧
  (∀ a : Symbol, gmul a 1 = a) ∧ (∀ a : Symbol, gmul a 0 = 0) ∧
  (∀ a b c : Symbol, gmul a (b ^^^ c) = gmul a b ^^^ gmul a c) ∧
  (∀ a b : Symbol, gmul a b = 0 → a = 0 ∨ b = 0) ∧
  (∀ a : Symbol, a ≠ 0 → ∃ b : Symbol, gmul a b = 1)

/-! ### Reed-Solomon -/

/-- R201, R202: the register's step and the order of the data symbols. -/
def Obligations.EncoderIsTheShiftRegister : Prop :=
  (∀ (d : Symbol) (q : Vector Symbol 4), lfsrStep d q =
    #v[gmul 17 (d ^^^ q[3]), q[0] ^^^ gmul 9 (d ^^^ q[3]), q[1] ^^^ gmul 6 (d ^^^ q[3]), q[2] ^^^ gmul 30 (d ^^^ q[3])]) ∧
  rsenc [] = #v[0, 0, 0, 0] ∧ (∀ (d : Symbol) (ds : List Symbol), rsenc (d :: ds) = lfsrStep d (rsenc ds))

/-- R203, R205, R206: `RSENC` appends the parity, which is the linear combination of R206's columns by the data symbols. One entry
of R206's printed table is an error and is replaced by what R201 and R202 give (log 9). -/
def Obligations.RsencAppendsTheParity : Prop :=
  decode 0x6000 = .command .rsenc ∧
  ∀ s : State, ∃ t : State, exec .rsenc s = .next t ∧ t = { s with p := t.p, cw := t.cw, code := 0 } ∧
    (∀ k : Fin 13, t.cw[k.val] = s.cw[k.val]) ∧ (∀ m : Fin 4, t.cw[13 + m.val] = t.p[m.val]) ∧
    ∀ m : Fin 4, t.p[m.val] =
      (List.finRange 13).foldl (fun x k => x ^^^ gmul s.cw[k.val] ((unitParity[k.val])[m.val])) 0

/-- R211, R212. -/
def Obligations.RschkComputesTheSyndromes : Prop :=
  decode 0x7000 = .command .rschk ∧
  ∀ s : State, exec .rschk s = .next { s with
    syn := loopSyndromes s.cw
    valid := (loopSyndrome s.cw 1 ||| loopSyndrome s.cw 2 ||| loopSyndrome s.cw 3 ||| loopSyndrome s.cw 4) == 0
    code := 0 }

/-- R215: whatever the data, the codeword `RSENC` leaves is valid. -/
def Obligations.EncodedCodewordIsValid : Prop :=
  ∀ s : State, ∃ t u : State, exec .rsenc s = .next t ∧ exec .rschk t = .next u ∧
    u.valid = true ∧ u.syn = Vector.replicate 4 0

/-- R215: for each data vector the valid codeword is unique: a codeword is valid exactly when encoding its data again leaves it as
it is. -/
def Obligations.ValidExactlyWhenTheParityFits : Prop :=
  ∀ s : State, ∃ t u : State, exec .rsenc s = .next t ∧ exec .rschk s = .next u ∧ (u.valid = true ↔ t.cw = s.cw)

/-- R216: changing one to four symbols of a valid codeword always gives `VALID = 0`. -/
def Obligations.UpToFourChangedSymbolsAreDetected : Prop :=
  ∀ (s u : State) (cw' : Vector Symbol 17), exec .rschk s = .next u → u.valid = true →
    1 ≤ placesChanged s.cw cw' → placesChanged s.cw cw' ≤ 4 →
    ∃ v : State, exec .rschk { s with cw := cw' } = .next v ∧ v.valid = false

/-! ### Text -/

/-- R115: the alphabet index by the ranges of bytes. -/
def Obligations.AlphabetIndexByRanges : Prop :=
  ∀ c : TextByte, aidx c =
    if 0x32 ≤ c.toNat ∧ c.toNat ≤ 0x39 then some (BitVec.ofNat 5 (c.toNat - 0x32))
    else if 0x41 ≤ c.toNat ∧ c.toNat ≤ 0x48 then some (BitVec.ofNat 5 (c.toNat - 0x41 + 8))
    else if 0x4A ≤ c.toNat ∧ c.toNat ≤ 0x4E then some (BitVec.ofNat 5 (c.toNat - 0x4A + 16))
    else if 0x50 ≤ c.toNat ∧ c.toNat ≤ 0x5A then some (BitVec.ofNat 5 (c.toNat - 0x50 + 21))
    else none

/-- R231, R232: `FMT` leaves the canonical text of whatever `CW` holds. -/
def Obligations.FmtWritesTheCanonicalText : Prop :=
  decode 0x8000 = .command .fmt ∧
  ∀ s : State, ∃ t : State, exec .fmt s = .next t ∧ t = { s with tout := t.tout, toutlen := 26, code := 0 } ∧
    IsTextOf t.tout s.cw

/-- R233: different codewords have different texts. -/
def Obligations.FmtIsInjective : Prop :=
  ∀ s s' t t' : State, exec .fmt s = .next t → exec .fmt s' = .next t' → t.tout = t'.tout → s.cw = s'.cw

/-- R240, R246: exactly 17 accepted symbols that are a valid codeword: the parse ends `OK`. -/
def Obligations.ParseAcceptsAValidCodeword : Prop :=
  decode 0x9000 = .command .parse ∧
  ∀ (s : State) (cw : Vector Symbol 17), s.tinlen.toNat ≤ Config.tinCap → (acceptedSymbols s.inputString).length = 17 →
    IsPlacement (acceptedSymbols s.inputString) cw → ValidCodeword cw →
    exec .parse s = .next { s with cw := cw, clen := 17, syn := Vector.replicate 4 0, valid := true, code := 0 }

/-- R240, R246, R293 (b): exactly 17 accepted symbols that are no valid codeword. -/
def Obligations.ParseRejectsAnInvalidCodeword : Prop :=
  ∀ (s : State) (cw : Vector Symbol 17), s.tinlen.toNat ≤ Config.tinCap → (acceptedSymbols s.inputString).length = 17 →
    IsPlacement (acceptedSymbols s.inputString) cw → ¬ ValidCodeword cw →
    exec .parse s = .next { s with cw := cw, clen := 17, syn := loopSyndromes cw, valid := false, code := 2 }

/-- R240, R246, R293 (a): fewer than 17 accepted symbols. The validator is not run. -/
def Obligations.ParseRejectsTooFewSymbols : Prop :=
  ∀ (s : State) (cw : Vector Symbol 17), s.tinlen.toNat ≤ Config.tinCap → (acceptedSymbols s.inputString).length < 17 →
    IsPlacement (acceptedSymbols s.inputString) cw →
    exec .parse s = .next { s with
      cw := cw, clen := BitVec.ofNat 5 (acceptedSymbols s.inputString).length
      syn := Vector.replicate 4 0, valid := false, code := 2 }

/-- R240, R246, R292: 18 or more accepted symbols: the first 17 are placed, and not validated. -/
def Obligations.ParseRejectsTooManySymbols : Prop :=
  ∀ (s : State) (cw : Vector Symbol 17), s.tinlen.toNat ≤ Config.tinCap → 17 < (acceptedSymbols s.inputString).length →
    IsPlacement (acceptedSymbols s.inputString) cw →
    exec .parse s = .next { s with cw := cw, clen := 17, syn := Vector.replicate 4 0, valid := false, code := 1 }

/-- R243: bytes that are not alphabet bytes do not matter: two strings with the same alphabet bytes after the prefix parse alike. -/
def Obligations.ParseSkipsForeignBytes : Prop :=
  ∀ s s' : State, s.tinlen.toNat ≤ Config.tinCap → s'.tinlen.toNat ≤ Config.tinCap →
    s' = { s with tin := s'.tin, tinlen := s'.tinlen } →
    (stripPrefix s.inputString).filter (fun c => (aidx c).isSome) = (stripPrefix s'.inputString).filter (fun c => (aidx c).isSome) →
    ∃ t : State, exec .parse s = .next t ∧ exec .parse s' = .next { t with tin := s'.tin, tinlen := s'.tinlen }

/-- R247: formatting any codeword, copying the text to the input and parsing it restores the codeword; the outcome is `OK` exactly
when it was valid, and `CodewordInvalid` otherwise. -/
def Obligations.ParseUndoesFmt : Prop :=
  ∀ s : State, ∃ t u : State, exec .fmt s = .next t ∧ exec .parse (copyToutToTin t) = .next u ∧ u.cw = s.cw ∧ u.clen = 17 ∧
    (ValidCodeword s.cw → u.code = 0) ∧ (¬ ValidCodeword s.cw → u.code = 2)

/-! ### Composite commands -/

/-- R261, R262: `ENCODE` succeeds from every state and leaves the digits, the codeword and the text of `ID`. -/
def Obligations.EncodeWritesTheAddressOfId : Prop :=
  decode 0xA000 = .command .encode ∧
  ∀ s : State, ∃ t : State, exec .encode s = .next t ∧
    t = { s with dec := t.dec, dlen := t.dlen, cw := t.cw, passes := t.passes, p := t.p, tout := t.tout, toutlen := 26, code := 0 } ∧
    t.DecimalForm ∧ t.decValue = s.id.toNat ∧ symbolsValue t.cw = s.id.toNat ∧ (t.cw[12]).toNat ≤ 15 ∧
    (s.id = 0 → t.passes = 1) ∧
    (s.id ≠ 0 → 1 ≤ t.passes.toNat ∧ 32 ^ (t.passes.toNat - 1) ≤ s.id.toNat ∧ s.id.toNat < 32 ^ t.passes.toNat) ∧
    (∀ m : Fin 4, t.cw[13 + m.val] = t.p[m.val]) ∧ ValidCodeword t.cw ∧ IsTextOf t.tout t.cw

/-- R260: `ENCODE` ends in the state of the unit commands issued one by one. -/
def Obligations.EncodeIsItsUnitCommands : Prop :=
  ∀ s : State, ∃ a b c t : State, exec .ddd s = .next a ∧ exec .r10t32 a = .next b ∧ exec .rsenc b = .next c ∧
    exec .fmt c = .next t ∧ exec .encode s = .next t

/-- R260: `DECODE` ends in the state of the unit commands issued one by one and stopped at the first outcome that is not `OK`. -/
def Obligations.DecodeIsItsUnitCommands : Prop :=
  ∀ s a : State, exec .parse s = .next a →
    (a.code ≠ 0 → exec .decode s = .next a) ∧
    (a.code = 0 → ∃ b t : State, exec .r32t10 a = .next b ∧ exec .dacc b = .next t ∧ exec .decode s = .next t)

/-- R264: a string that parses to a valid codeword whose value fits 64 bits is decoded to that value. -/
def Obligations.DecodeReadsAValidAddress : Prop :=
  decode 0xB000 = .command .decode ∧
  ∀ (s : State) (cw : Vector Symbol 17), s.tinlen.toNat ≤ Config.tinCap → (acceptedSymbols s.inputString).length = 17 →
    IsPlacement (acceptedSymbols s.inputString) cw → ValidCodeword cw → symbolsValue cw < 2 ^ 64 →
    ∃ t : State, exec .decode s = .next t ∧
      t = { s with
        cw := cw, clen := 17, syn := Vector.replicate 4 0, valid := true, dec := t.dec, dlen := t.dlen, passes := t.passes
        id := BitVec.ofNat 64 (symbolsValue cw), code := 0 } ∧
      t.DecimalForm ∧ t.decValue = symbolsValue cw ∧ t.passes = t.dlen

/-- R264, R295: a valid codeword whose value is 2^64 or more raises `IdOverflow`: `VALID = 1`, the full value in `DEC`, `ID` as it
was. -/
def Obligations.DecodeReportsAnOverflow : Prop :=
  ∀ (s : State) (cw : Vector Symbol 17), s.tinlen.toNat ≤ Config.tinCap → (acceptedSymbols s.inputString).length = 17 →
    IsPlacement (acceptedSymbols s.inputString) cw → ValidCodeword cw → 2 ^ 64 ≤ symbolsValue cw →
    ∃ t : State, exec .decode s = .next t ∧
      t = { s with
        cw := cw, clen := 17, syn := Vector.replicate 4 0, valid := true, dec := t.dec, dlen := t.dlen, passes := t.passes
        code := 3 } ∧
      t.DecimalForm ∧ t.decValue = symbolsValue cw ∧ t.passes = t.dlen

/-- R265: for every `ID`, encoding, copying the text to the input and decoding, with any number written to `ID` between, ends `OK`
with that `ID`. -/
def Obligations.AddressRoundTripRestoresId : Prop :=
  ∀ (s : State) (x : BitVec 64), ∃ t u : State, exec .encode s = .next t ∧
    exec .decode (copyToutToTin { t with id := x }) = .next u ∧ u.id = s.id ∧ u.code = 0 ∧ u.valid = true

/-- R216, R264, conflict C8: the text of a codeword that differs from a valid one in one to four symbols is never decoded: the
outcome is `CodewordInvalid` and `ID` stays. -/
def Obligations.SubstitutedAddressIsRejected : Prop :=
  ∀ (s : State) (cw cw' : Vector Symbol 17) (text : Vector TextByte 26), ValidCodeword cw → 1 ≤ placesChanged cw cw' →
    placesChanged cw cw' ≤ 4 → IsTextOf text cw' → (∀ k : Fin 26, s.tin[k.val] = text[k.val]) → s.tinlen = 26 →
    exec .decode s = .next { s with cw := cw', clen := 17, syn := loopSyndromes cw', valid := false, code := 2 }

/-! ### Rules of the whole machine -/

/-- The "Operands" part of every command's rule: an address a command does not write reads as before, and no command touches the
model's fields for the host (log 1, log 2). -/
def Obligations.CommandsWriteOnlyTheirCells : Prop :=
  ∀ (i : Instr) (s t : State), exec i s = .next t →
    t.pending = s.pending ∧ t.response = s.response ∧
    ∀ a : HostAddr, writesAddr i a.toNat = false → hostRead a t = hostRead a s

/-- R44, R297: the outcome codes a command can leave, and the commands that leave `VALID` as it was. -/
def Obligations.OutcomesAndFlagByCommand : Prop :=
  ∀ (i : Instr) (s t : State), exec i s = .next t →
    (i = .dacc → t.code = 0 ∨ t.code = 3) ∧ (i = .parse → t.code = 0 ∨ t.code = 1 ∨ t.code = 2) ∧
    (i = .decode → t.code = 0 ∨ t.code = 1 ∨ t.code = 2 ∨ t.code = 3) ∧
    (i ≠ .dacc → i ≠ .parse → i ≠ .decode → t.code = 0) ∧
    (i ≠ .rschk → i ≠ .parse → i ≠ .decode → i ≠ .clr → t.valid = s.valid) ∧
    (i = .decode → (t.valid = true ↔ t.code = 0 ∨ t.code = 3))

/-- R21, R218: a command changes `ID` only when it is `CLR`, or `DACC` or `DECODE` ended `OK`; and a `DECODE` that ends `OK` has a
valid codeword, whose value `ID` is. -/
def Obligations.IdIsWrittenOnlyByASuccess : Prop :=
  (∀ (i : Instr) (s t : State), exec i s = .next t → t.id ≠ s.id →
    i = .clr ∨ ((i = .dacc ∨ i = .decode) ∧ t.code = 0)) ∧
  (∀ s t : State, exec .decode s = .next t → t.code = 0 → ValidCodeword t.cw ∧ t.id.toNat = symbolsValue t.cw)

/-- R42: `VALID` set says that the syndromes in `SYN` are zero, after every step. -/
def Obligations.ValidFlagMatchesTheSyndromes : Prop :=
  State.reset.ValidMeansZero ∧ ∀ s t : State, s.ValidMeansZero → step s = .next t → t.ValidMeansZero
end

