-- ==== Sys2Proof/Laws/State.lean ====
section
/-! SUPPORT. One lemma per field of State and per named update, each true by rfl, so that no proof unfolds a record update. -/

namespace Sys2Proof.Machine

/-! ### endWith -/

@[simp] theorem endWith_id (o : CmdOutcome) (s : State) : (endWith o s).id = s.id := rfl
@[simp] theorem endWith_dec (o : CmdOutcome) (s : State) : (endWith o s).dec = s.dec := rfl
@[simp] theorem endWith_dlen (o : CmdOutcome) (s : State) : (endWith o s).dlen = s.dlen := rfl
@[simp] theorem endWith_cw (o : CmdOutcome) (s : State) : (endWith o s).cw = s.cw := rfl
@[simp] theorem endWith_clen (o : CmdOutcome) (s : State) : (endWith o s).clen = s.clen := rfl
@[simp] theorem endWith_p (o : CmdOutcome) (s : State) : (endWith o s).p = s.p := rfl
@[simp] theorem endWith_syn (o : CmdOutcome) (s : State) : (endWith o s).syn = s.syn := rfl
@[simp] theorem endWith_gp (o : CmdOutcome) (s : State) : (endWith o s).gp = s.gp := rfl
@[simp] theorem endWith_passes (o : CmdOutcome) (s : State) : (endWith o s).passes = s.passes := rfl
@[simp] theorem endWith_tin (o : CmdOutcome) (s : State) : (endWith o s).tin = s.tin := rfl
@[simp] theorem endWith_tinlen (o : CmdOutcome) (s : State) : (endWith o s).tinlen = s.tinlen := rfl
@[simp] theorem endWith_tout (o : CmdOutcome) (s : State) : (endWith o s).tout = s.tout := rfl
@[simp] theorem endWith_toutlen (o : CmdOutcome) (s : State) : (endWith o s).toutlen = s.toutlen := rfl
@[simp] theorem endWith_code (o : CmdOutcome) (s : State) : (endWith o s).code = o.code := rfl
@[simp] theorem endWith_valid (o : CmdOutcome) (s : State) : (endWith o s).valid = s.valid := rfl
@[simp] theorem endWith_pending (o : CmdOutcome) (s : State) : (endWith o s).pending = s.pending := rfl
@[simp] theorem endWith_response (o : CmdOutcome) (s : State) : (endWith o s).response = s.response := rfl

/-! ### recordValidation -/

@[simp] theorem recordValidation_id (S : Vector Symbol 4) (s : State) : (recordValidation S s).id = s.id := rfl
@[simp] theorem recordValidation_dec (S : Vector Symbol 4) (s : State) : (recordValidation S s).dec = s.dec := rfl
@[simp] theorem recordValidation_dlen (S : Vector Symbol 4) (s : State) : (recordValidation S s).dlen = s.dlen := rfl
@[simp] theorem recordValidation_cw (S : Vector Symbol 4) (s : State) : (recordValidation S s).cw = s.cw := rfl
@[simp] theorem recordValidation_clen (S : Vector Symbol 4) (s : State) : (recordValidation S s).clen = s.clen := rfl
@[simp] theorem recordValidation_p (S : Vector Symbol 4) (s : State) : (recordValidation S s).p = s.p := rfl
@[simp] theorem recordValidation_syn (S : Vector Symbol 4) (s : State) : (recordValidation S s).syn = S := rfl
@[simp] theorem recordValidation_gp (S : Vector Symbol 4) (s : State) : (recordValidation S s).gp = s.gp := rfl
@[simp] theorem recordValidation_passes (S : Vector Symbol 4) (s : State) : (recordValidation S s).passes = s.passes := rfl
@[simp] theorem recordValidation_tin (S : Vector Symbol 4) (s : State) : (recordValidation S s).tin = s.tin := rfl
@[simp] theorem recordValidation_tinlen (S : Vector Symbol 4) (s : State) : (recordValidation S s).tinlen = s.tinlen := rfl
@[simp] theorem recordValidation_tout (S : Vector Symbol 4) (s : State) : (recordValidation S s).tout = s.tout := rfl
@[simp] theorem recordValidation_toutlen (S : Vector Symbol 4) (s : State) : (recordValidation S s).toutlen = s.toutlen := rfl
@[simp] theorem recordValidation_code (S : Vector Symbol 4) (s : State) : (recordValidation S s).code = s.code := rfl
@[simp] theorem recordValidation_valid (S : Vector Symbol 4) (s : State) : (recordValidation S s).valid = syndromesZero S := rfl
@[simp] theorem recordValidation_pending (S : Vector Symbol 4) (s : State) : (recordValidation S s).pending = s.pending := rfl
@[simp] theorem recordValidation_response (S : Vector Symbol 4) (s : State) : (recordValidation S s).response = s.response := rfl

/-! ### clearParse -/

@[simp] theorem clearParse_id (s : State) : (clearParse s).id = s.id := rfl
@[simp] theorem clearParse_dec (s : State) : (clearParse s).dec = s.dec := rfl
@[simp] theorem clearParse_dlen (s : State) : (clearParse s).dlen = s.dlen := rfl
@[simp] theorem clearParse_cw (s : State) : (clearParse s).cw = Vector.replicate 17 0 := rfl
@[simp] theorem clearParse_clen (s : State) : (clearParse s).clen = 0 := rfl
@[simp] theorem clearParse_p (s : State) : (clearParse s).p = s.p := rfl
@[simp] theorem clearParse_syn (s : State) : (clearParse s).syn = Vector.replicate 4 0 := rfl
@[simp] theorem clearParse_gp (s : State) : (clearParse s).gp = s.gp := rfl
@[simp] theorem clearParse_passes (s : State) : (clearParse s).passes = s.passes := rfl
@[simp] theorem clearParse_tin (s : State) : (clearParse s).tin = s.tin := rfl
@[simp] theorem clearParse_tinlen (s : State) : (clearParse s).tinlen = s.tinlen := rfl
@[simp] theorem clearParse_tout (s : State) : (clearParse s).tout = s.tout := rfl
@[simp] theorem clearParse_toutlen (s : State) : (clearParse s).toutlen = s.toutlen := rfl
@[simp] theorem clearParse_code (s : State) : (clearParse s).code = s.code := rfl
@[simp] theorem clearParse_valid (s : State) : (clearParse s).valid = false := rfl
@[simp] theorem clearParse_pending (s : State) : (clearParse s).pending = s.pending := rfl
@[simp] theorem clearParse_response (s : State) : (clearParse s).response = s.response := rfl

/-! ### resetBlock -/

@[simp] theorem resetBlock_id (s : State) : (resetBlock s).id = State.reset.id := rfl
@[simp] theorem resetBlock_dec (s : State) : (resetBlock s).dec = State.reset.dec := rfl
@[simp] theorem resetBlock_dlen (s : State) : (resetBlock s).dlen = State.reset.dlen := rfl
@[simp] theorem resetBlock_cw (s : State) : (resetBlock s).cw = State.reset.cw := rfl
@[simp] theorem resetBlock_clen (s : State) : (resetBlock s).clen = State.reset.clen := rfl
@[simp] theorem resetBlock_p (s : State) : (resetBlock s).p = State.reset.p := rfl
@[simp] theorem resetBlock_syn (s : State) : (resetBlock s).syn = State.reset.syn := rfl
@[simp] theorem resetBlock_gp (s : State) : (resetBlock s).gp = State.reset.gp := rfl
@[simp] theorem resetBlock_passes (s : State) : (resetBlock s).passes = State.reset.passes := rfl
@[simp] theorem resetBlock_tin (s : State) : (resetBlock s).tin = State.reset.tin := rfl
@[simp] theorem resetBlock_tinlen (s : State) : (resetBlock s).tinlen = State.reset.tinlen := rfl
@[simp] theorem resetBlock_tout (s : State) : (resetBlock s).tout = State.reset.tout := rfl
@[simp] theorem resetBlock_toutlen (s : State) : (resetBlock s).toutlen = State.reset.toutlen := rfl
@[simp] theorem resetBlock_code (s : State) : (resetBlock s).code = State.reset.code := rfl
@[simp] theorem resetBlock_valid (s : State) : (resetBlock s).valid = State.reset.valid := rfl
@[simp] theorem resetBlock_pending (s : State) : (resetBlock s).pending = s.pending := rfl
@[simp] theorem resetBlock_response (s : State) : (resetBlock s).response = s.response := rfl

/-! ### doReset -/

@[simp] theorem doReset_id (s : State) : (doReset s).id = State.reset.id := rfl
@[simp] theorem doReset_dec (s : State) : (doReset s).dec = State.reset.dec := rfl
@[simp] theorem doReset_dlen (s : State) : (doReset s).dlen = State.reset.dlen := rfl
@[simp] theorem doReset_cw (s : State) : (doReset s).cw = State.reset.cw := rfl
@[simp] theorem doReset_clen (s : State) : (doReset s).clen = State.reset.clen := rfl
@[simp] theorem doReset_p (s : State) : (doReset s).p = State.reset.p := rfl
@[simp] theorem doReset_syn (s : State) : (doReset s).syn = State.reset.syn := rfl
@[simp] theorem doReset_gp (s : State) : (doReset s).gp = State.reset.gp := rfl
@[simp] theorem doReset_passes (s : State) : (doReset s).passes = State.reset.passes := rfl
@[simp] theorem doReset_tin (s : State) : (doReset s).tin = State.reset.tin := rfl
@[simp] theorem doReset_tinlen (s : State) : (doReset s).tinlen = State.reset.tinlen := rfl
@[simp] theorem doReset_tout (s : State) : (doReset s).tout = State.reset.tout := rfl
@[simp] theorem doReset_toutlen (s : State) : (doReset s).toutlen = State.reset.toutlen := rfl
@[simp] theorem doReset_code (s : State) : (doReset s).code = State.reset.code := rfl
@[simp] theorem doReset_valid (s : State) : (doReset s).valid = State.reset.valid := rfl
@[simp] theorem doReset_pending (s : State) : (doReset s).pending = s.pending := rfl
@[simp] theorem doReset_response (s : State) : (doReset s).response = none := rfl

/-! ### answer -/

@[simp] theorem answer_id (r : Response) (s : State) : (answer r s).id = s.id := rfl
@[simp] theorem answer_dec (r : Response) (s : State) : (answer r s).dec = s.dec := rfl
@[simp] theorem answer_dlen (r : Response) (s : State) : (answer r s).dlen = s.dlen := rfl
@[simp] theorem answer_cw (r : Response) (s : State) : (answer r s).cw = s.cw := rfl
@[simp] theorem answer_clen (r : Response) (s : State) : (answer r s).clen = s.clen := rfl
@[simp] theorem answer_p (r : Response) (s : State) : (answer r s).p = s.p := rfl
@[simp] theorem answer_syn (r : Response) (s : State) : (answer r s).syn = s.syn := rfl
@[simp] theorem answer_gp (r : Response) (s : State) : (answer r s).gp = s.gp := rfl
@[simp] theorem answer_passes (r : Response) (s : State) : (answer r s).passes = s.passes := rfl
@[simp] theorem answer_tin (r : Response) (s : State) : (answer r s).tin = s.tin := rfl
@[simp] theorem answer_tinlen (r : Response) (s : State) : (answer r s).tinlen = s.tinlen := rfl
@[simp] theorem answer_tout (r : Response) (s : State) : (answer r s).tout = s.tout := rfl
@[simp] theorem answer_toutlen (r : Response) (s : State) : (answer r s).toutlen = s.toutlen := rfl
@[simp] theorem answer_code (r : Response) (s : State) : (answer r s).code = s.code := rfl
@[simp] theorem answer_valid (r : Response) (s : State) : (answer r s).valid = s.valid := rfl
@[simp] theorem answer_pending (r : Response) (s : State) : (answer r s).pending = s.pending := rfl
@[simp] theorem answer_response (r : Response) (s : State) : (answer r s).response = some r := rfl

/-! ### withFetchWord -/

@[simp] theorem withFetchWord_id (s : State) (nbits w : Nat) : (s.withFetchWord nbits w).id = s.id := rfl
@[simp] theorem withFetchWord_dec (s : State) (nbits w : Nat) : (s.withFetchWord nbits w).dec = s.dec := rfl
@[simp] theorem withFetchWord_dlen (s : State) (nbits w : Nat) : (s.withFetchWord nbits w).dlen = s.dlen := rfl
@[simp] theorem withFetchWord_cw (s : State) (nbits w : Nat) : (s.withFetchWord nbits w).cw = s.cw := rfl
@[simp] theorem withFetchWord_clen (s : State) (nbits w : Nat) : (s.withFetchWord nbits w).clen = s.clen := rfl
@[simp] theorem withFetchWord_p (s : State) (nbits w : Nat) : (s.withFetchWord nbits w).p = s.p := rfl
@[simp] theorem withFetchWord_syn (s : State) (nbits w : Nat) : (s.withFetchWord nbits w).syn = s.syn := rfl
@[simp] theorem withFetchWord_gp (s : State) (nbits w : Nat) : (s.withFetchWord nbits w).gp = s.gp := rfl
@[simp] theorem withFetchWord_passes (s : State) (nbits w : Nat) : (s.withFetchWord nbits w).passes = s.passes := rfl
@[simp] theorem withFetchWord_tin (s : State) (nbits w : Nat) : (s.withFetchWord nbits w).tin = s.tin := rfl
@[simp] theorem withFetchWord_tinlen (s : State) (nbits w : Nat) : (s.withFetchWord nbits w).tinlen = s.tinlen := rfl
@[simp] theorem withFetchWord_tout (s : State) (nbits w : Nat) : (s.withFetchWord nbits w).tout = s.tout := rfl
@[simp] theorem withFetchWord_toutlen (s : State) (nbits w : Nat) : (s.withFetchWord nbits w).toutlen = s.toutlen := rfl
@[simp] theorem withFetchWord_code (s : State) (nbits w : Nat) : (s.withFetchWord nbits w).code = s.code := rfl
@[simp] theorem withFetchWord_valid (s : State) (nbits w : Nat) : (s.withFetchWord nbits w).valid = s.valid := rfl
@[simp] theorem withFetchWord_pending (s : State) (nbits w : Nat) : (s.withFetchWord nbits w).pending = HostEvent.wr 0x001 (BitVec.ofNat 64 (w % 2 ^ nbits)) :: s.pending := rfl
@[simp] theorem withFetchWord_response (s : State) (nbits w : Nat) : (s.withFetchWord nbits w).response = s.response := rfl

end Sys2Proof.Machine
end

