-- ==== Sys2Proof/Laws/Ops.lean ====
section
/-! SUPPORT. What each shared operation of Machine/Ops.lean, Flags.lean and Operands.lean can do. -/

namespace Sys2Proof.Machine

/-! ### Ending a command -/

@[simp] theorem finish_done (s : State) : (Ending.done s).finish = .next (endWith .ok s) := rfl
@[simp] theorem finish_raised (o : CmdOutcome) (s : State) : (Ending.raised o s).finish = .next (endWith o s) := rfl
@[simp] theorem finish_stopFault (f : Fault) : (Ending.stopFault f).finish = .fault f := rfl
@[simp] theorem finish_stopRefused (r : Refusal) : (Ending.stopRefused r).finish = .refused r := rfl
@[simp] theorem andThen_done (s : State) (f : State → Ending) : (Ending.done s).andThen f = f s := rfl
@[simp] theorem andThen_raised (o : CmdOutcome) (s : State) (f : State → Ending) : (Ending.raised o s).andThen f = .raised o s := rfl
@[simp] theorem andThen_stopFault (e : Fault) (f : State → Ending) : (Ending.stopFault e).andThen f = .stopFault e := rfl
@[simp] theorem andThen_stopRefused (r : Refusal) (f : State → Ending) : (Ending.stopRefused r).andThen f = .stopRefused r := rfl

/-- Everything the end of a command can be when it answers a next state. -/
theorem finish_eq_next {e : Ending} {t : State} (h : e.finish = .next t) :
    (∃ s, e = .done s ∧ t = endWith .ok s) ∨ (∃ o s, e = .raised o s ∧ t = endWith o s) := by
  cases e with
  | done s => exact .inl ⟨s, rfl, by simpa using h.symm⟩
  | raised o s => exact .inr ⟨o, s, rfl, by simpa using h.symm⟩
  | stopFault f => cases h
  | stopRefused r => cases h

/-- Two steps in sequence end done exactly when both do. -/
theorem andThen_eq_done {e : Ending} {f : State → Ending} {t : State} (h : e.andThen f = .done t) :
    ∃ s, e = .done s ∧ f s = .done t := by
  cases e with
  | done s => exact ⟨s, rfl, h⟩
  | raised o s => cases h
  | stopFault f => cases h
  | stopRefused r => cases h

/-- Two steps in sequence raise when the first does, or when it is done and the second does. -/
theorem andThen_eq_raised {e : Ending} {f : State → Ending} {o : CmdOutcome} {t : State} (h : e.andThen f = .raised o t) :
    e = .raised o t ∨ ∃ s, e = .done s ∧ f s = .raised o t := by
  cases e with
  | done s => exact .inr ⟨s, rfl, h⟩
  | raised o' s => exact .inl h
  | stopFault f => cases h
  | stopRefused r => cases h

/-- No outcome has a code above 4 (R290). -/
theorem code_le_four (o : CmdOutcome) : o.code.toNat ≤ 4 := by cases o <;> decide

/-! ### The value of a digit sequence -/

theorem val_foldl (b v : Nat) (d : List Nat) : d.foldl (fun v x => v * b + x) v = v * b ^ d.length + val b d := by
  induction d generalizing v with
  | nil => simp [val]
  | cons x xs ih =>
    simp only [List.foldl_cons, List.length_cons, val]
    rw [ih, ih (0 * b + x)]
    ring

@[simp] theorem val_nil (b : Nat) : val b [] = 0 := rfl

theorem val_cons (b x : Nat) (xs : List Nat) : val b (x :: xs) = x * b ^ xs.length + val b xs := by
  have := val_foldl b (0 * b + x) xs
  simpa [val] using this

theorem val_append (b : Nat) (xs ys : List Nat) : val b (xs ++ ys) = val b xs * b ^ ys.length + val b ys := by
  induction xs with
  | nil => simp
  | cons x xs ih => simp only [List.cons_append, val_cons, ih, List.length_append, pow_add]; ring

@[simp] theorem val_singleton (b x : Nat) : val b [x] = x := by simp [val]

theorem val_lt {b : Nat} {d : List Nat} (h : ∀ x ∈ d, x < b) : val b d < b ^ d.length := by
  induction d with
  | nil => simp
  | cons x xs ih =>
    have hx : x + 1 ≤ b := h x (by simp)
    have ht := ih fun y hy => h y (by simp [hy])
    rw [val_cons, List.length_cons, pow_succ]
    calc x * b ^ xs.length + val b xs < (x + 1) * b ^ xs.length := by nlinarith
      _ ≤ b ^ xs.length * b := by rw [Nat.mul_comm]; exact Nat.mul_le_mul_left _ hx

/-- A sequence that begins with a digit that is not zero has a value of at least the weight of that digit. -/
theorem le_val_cons {b x : Nat} {xs : List Nat} (h : x ≠ 0) : b ^ xs.length ≤ val b (x :: xs) := by
  rw [val_cons]; nlinarith [Nat.one_le_iff_ne_zero.mpr h, Nat.zero_le (b ^ xs.length)]

/-! ### The buffers -/

@[simp] theorem decCells_getElem (d : List Nat) (i : Nat) (h : i < 20) : (decCells d)[i] = BitVec.ofNat 4 (d.getD i 0) := by
  simp [decCells]

@[simp] theorem putData_getElem (d : List Symbol) (cw : Vector Symbol 17) (k : Nat) (h : k < 17) :
    (putData d cw)[k] = if k < 13 then d.getD k 0 else cw[k] := by
  simp [putData]

@[simp] theorem putParity_getElem (q : Vector Symbol 4) (cw : Vector Symbol 17) (k : Nat) (h : k < 17) :
    (putParity q cw)[k] = if h' : 13 ≤ k then q[k - 13]'(by omega) else cw[k] := by
  simp [putParity]

theorem syndromesZero_iff (S : Vector Symbol 4) : syndromesZero S = true ↔ S[0] = 0 ∧ S[1] = 0 ∧ S[2] = 0 ∧ S[3] = 0 := by
  simp only [syndromesZero, beq_iff_eq]
  constructor
  · intro h
    have h1 : ∀ a b : Symbol, a ||| b = 0 → a = 0 ∧ b = 0 := by decide
    obtain ⟨h2, h3⟩ := h1 _ _ h
    obtain ⟨h4, h5⟩ := h1 _ _ h2
    obtain ⟨h6, h7⟩ := h1 _ _ h4
    exact ⟨h6, h7, h5, h3⟩
  · rintro ⟨h0, h1, h2, h3⟩
    rw [h0, h1, h2, h3]; rfl

theorem decDigits_of_le {s : State} (h : s.dlen.toNat ≤ 20) :
    decDigits s = some ((s.dec.toList.take s.dlen.toNat).map BitVec.toNat) := by
  simp [decDigits, h]

theorem decDigits_of_gt {s : State} (h : 20 < s.dlen.toNat) : decDigits s = none := by
  simp [decDigits, h]

theorem inputBytes_of_le {s : State} (h : s.tinlen.toNat ≤ Config.tinCap) :
    inputBytes s = some (s.tin.toList.take s.tinlen.toNat) := by
  simp [inputBytes, h]

theorem inputBytes_of_gt {s : State} (h : Config.tinCap < s.tinlen.toNat) : inputBytes s = none := by
  simp [inputBytes, h]

end Sys2Proof.Machine
end

