-- ==== Sys2Proof/Laws/Units.lean ====
section
/-! SUPPORT. What each unit's step can do: one lemma for each, cited instead of unfolding it. -/

namespace Sys2Proof.Machine

/-! ### Decimal digits -/

/-- `DDD`'s step is always done. -/
theorem unitDdd_eq (s : State) :
    unitDdd s = .done { s with dec := decCells (sigDigits s.id.toNat), dlen := BitVec.ofNat 5 (decLength s.id.toNat) } := rfl

@[simp] theorem sigDigits_length (n : Nat) : (sigDigits n).length = decLength n := by simp [sigDigits]

theorem decLength_le (n : Nat) : decLength n ≤ 20 := by
  have := List.countP_le_length (p := fun i => decide (10 ^ i ≤ n)) (l := List.range 20)
  simp only [List.length_range] at this
  simp only [decLength]
  omega

theorem one_le_decLength (n : Nat) : 1 ≤ decLength n := by simp [decLength]

/-- Everything the end of `DACC` can be. -/
theorem storeId_cases (v : Nat) (s : State) :
    (Config.idLimit ≤ v ∧ storeId v s = .raised .idOverflow s) ∨
    (v < Config.idLimit ∧ storeId v s = .done { s with id := BitVec.ofNat 64 v }) := by
  by_cases h : Config.idLimit ≤ v
  · exact .inl ⟨h, by simp [storeId, h]⟩
  · exact .inr ⟨by omega, by simp [storeId, h]⟩

/-- `DACC`'s step where `DLEN` bounds the buffer. -/
theorem unitDacc_of_le {s : State} (h : s.dlen.toNat ≤ 20) :
    unitDacc s = storeId (val 10 ((s.dec.toList.take s.dlen.toNat).map BitVec.toNat)) s := by
  simp [unitDacc, decDigits_of_le h]

/-- `DACC`'s step where it does not. -/
theorem unitDacc_of_gt {s : State} (h : 20 < s.dlen.toNat) : unitDacc s = .stopFault .lengthOutOfRange := by
  simp [unitDacc, decDigits_of_gt h]

/-! ### The radix converter -/

@[simp] theorem passFrom_nil (b1 b2 acc : Nat) (stored : Bool) : passFrom b1 b2 acc stored [] = ([], acc) := by
  cases stored <;> rfl

/-- A digit of the quotient is stored once the accumulator reaches the base. -/
theorem passFrom_cons_ge {b1 b2 acc w : Nat} (stored : Bool) (ws : List Nat) (h : b2 ≤ acc * b1 + w) :
    passFrom b1 b2 acc stored (w :: ws) =
      ((acc * b1 + w) / b2 :: (passFrom b1 b2 ((acc * b1 + w) % b2) true ws).1, (passFrom b1 b2 ((acc * b1 + w) % b2) true ws).2) := by
  simp [passFrom, h]

/-- A zero inside the quotient is kept. -/
theorem passFrom_cons_lt_stored {b1 b2 acc w : Nat} (ws : List Nat) (h : acc * b1 + w < b2) :
    passFrom b1 b2 acc true (w :: ws) = (0 :: (passFrom b1 b2 (acc * b1 + w) true ws).1, (passFrom b1 b2 (acc * b1 + w) true ws).2) := by
  simp [passFrom, Nat.not_le.mpr h]

/-- A leading zero of the quotient is not stored. -/
theorem passFrom_cons_lt_unstored {b1 b2 acc w : Nat} (ws : List Nat) (h : acc * b1 + w < b2) :
    passFrom b1 b2 acc false (w :: ws) = passFrom b1 b2 (acc * b1 + w) false ws := by
  simp [passFrom, Nat.not_le.mpr h]

/-- The loop's body, and its test after it. -/
theorem passLoop_succ (b1 b2 fuel : Nat) (w : List Nat) :
    passLoop b1 b2 (fuel + 1) w =
      (divPass b1 b2 w).2 :: (if (divPass b1 b2 w).1 = [] then [] else passLoop b1 b2 fuel (divPass b1 b2 w).1) := rfl

/-- Everything the step of `R10T32` can be where `DLEN` bounds the buffer. -/
theorem storeSymbols_cases (d : List Nat) (s : State) :
    ((emitted 10 32 d).length ≤ 13 ∧ storeSymbols d s = .done { s with
      cw := putData ((emitted 10 32 d).map (BitVec.ofNat 5)) s.cw, passes := BitVec.ofNat 5 (emitted 10 32 d).length }) ∨
    (13 < (emitted 10 32 d).length ∧ storeSymbols d s = .stopRefused .decimalTooWide) := by
  by_cases h : (emitted 10 32 d).length ≤ 13
  · exact .inl ⟨h, by simp [storeSymbols, rconv, h]⟩
  · exact .inr ⟨by omega, by simp [storeSymbols, rconv, h]⟩

theorem unitR10t32_of_le {s : State} (h : s.dlen.toNat ≤ 20) :
    unitR10t32 s = storeSymbols ((s.dec.toList.take s.dlen.toNat).map BitVec.toNat) s := by
  simp [unitR10t32, decDigits_of_le h]

theorem unitR10t32_of_gt {s : State} (h : 20 < s.dlen.toNat) : unitR10t32 s = .stopFault .lengthOutOfRange := by
  simp [unitR10t32, decDigits_of_gt h]

/-- `R32T10`'s step is always done. -/
theorem unitR32t10_eq (s : State) :
    unitR32t10 s = .done { s with
      dec := decCells (emitted 32 10 (dataDigits s)).reverse
      dlen := BitVec.ofNat 5 (emitted 32 10 (dataDigits s)).length
      passes := BitVec.ofNat 5 (emitted 32 10 (dataDigits s)).length } := rfl

/-! ### Reed-Solomon and text -/

/-- `RSENC`'s step is always done. -/
theorem unitRsenc_eq (s : State) :
    unitRsenc s = .done { s with p := rsenc (dataSymbols s), cw := putParity (rsenc (dataSymbols s)) s.cw } := rfl

/-- `FMT`'s step is always done. -/
theorem unitFmt_eq (s : State) : unitFmt s = .done { s with tout := textOf s.cw, toutlen := 26 } := rfl

@[simp] theorem textOf_getElem (cw : Vector Symbol 17) (n : Nat) (h : n < 26) : (textOf cw)[n] = textByteAt cw ⟨n, h⟩ := by
  simp [textOf]

/-! ### The scan of PARSE -/

/-- The scan over the symbols it accepts, the skipped bytes gone. -/
def scanSymbols : List Symbol → Nat → Vector Symbol 17 → ScanEnd
  | [], cnt, cw => .ended cnt cw
  | v :: rest, cnt, cw => if h : cnt < 17 then scanSymbols rest (cnt + 1) (cw.set mapTable[cnt] v) else .tooLong cw

/-- The scan sees only the alphabet bytes. -/
theorem scan_eq_scanSymbols (bytes : List TextByte) (cnt : Nat) (cw : Vector Symbol 17) :
    scan bytes cnt cw = scanSymbols (bytes.filterMap aidx) cnt cw := by
  induction bytes generalizing cnt cw with
  | nil => rfl
  | cons b rest ih =>
    rw [scan]
    cases h : aidx b with
    | none => simp [h, ih]
    | some v =>
      simp only [List.filterMap_cons, h, scanSymbols]
      split
      · exact ih _ _
      · rfl

/-- The cells after symbols are placed from the count `cnt` on: `CW[MAP[n]]`. -/
def placeFrom : List Symbol → Nat → Vector Symbol 17 → Vector Symbol 17
  | [], _, cw => cw
  | v :: rest, cnt, cw => if h : cnt < 17 then placeFrom rest (cnt + 1) (cw.set mapTable[cnt] v) else cw

/-- Everything the scan can be: too long exactly when an 18th symbol is met. -/
theorem scanSymbols_eq (syms : List Symbol) (cnt : Nat) (cw : Vector Symbol 17) (hc : cnt ≤ 17) :
    scanSymbols syms cnt cw =
      if cnt + syms.length ≤ 17 then .ended (cnt + syms.length) (placeFrom syms cnt cw) else .tooLong (placeFrom syms cnt cw) := by
  induction syms generalizing cnt cw with
  | nil => simp [scanSymbols, placeFrom, hc]
  | cons v rest ih =>
    rw [scanSymbols, placeFrom]
    by_cases h : cnt < 17
    · simp only [h, dite_true, List.length_cons]
      rw [ih _ _ (by omega), show cnt + 1 + rest.length = cnt + (rest.length + 1) by omega]
    · rw [dif_neg h, dif_neg h, if_neg (by simp only [List.length_cons]; omega)]

/-- `MAP` sends two places to one cell only if they are the same (R76). -/
theorem mapTable_inj : ∀ i j : Fin 17, mapTable[i] = mapTable[j] → i = j := by decide

/-- What each cell holds after symbols are placed. -/
theorem placeFrom_getElem (syms : List Symbol) (cnt : Nat) (cw : Vector Symbol 17) (n : Fin 17) :
    (placeFrom syms cnt cw)[mapTable[n]] = if cnt ≤ n.val then syms.getD (n.val - cnt) (cw[mapTable[n]]) else cw[mapTable[n]] := by
  induction syms generalizing cnt cw with
  | nil => simp [placeFrom]
  | cons v rest ih =>
    rw [placeFrom]
    by_cases h : cnt < 17
    · simp only [h, dite_true]
      rw [ih]
      by_cases he : n.val = cnt
      · have hn : n = ⟨cnt, h⟩ := Fin.ext he
        subst hn
        simp
      · have hm : mapTable[cnt] ≠ mapTable[n] := fun hm => he (congrArg Fin.val (mapTable_inj ⟨cnt, h⟩ n hm)).symm
        have hv : (mapTable[cnt]).val ≠ (mapTable[n]).val := fun hv => hm (Fin.ext hv)
        have hg : (cw.set mapTable[cnt] v)[mapTable[n]] = cw[mapTable[n]] := Vector.getElem_set_ne _ _ hv
        rw [hg]
        by_cases hl : cnt + 1 ≤ n.val
        · have h2 : n.val - cnt = n.val - (cnt + 1) + 1 := by omega
          simp [hl, show cnt ≤ n.val by omega, h2]
        · simp [hl, show ¬ cnt ≤ n.val by omega]
    · have : ¬ cnt ≤ n.val := by have := n.isLt; omega
      simp [h, this]

/-- `PARSE`'s step where `TINLEN` bounds the buffer. -/
theorem unitParse_of_le {s : State} (h : s.tinlen.toNat ≤ Config.tinCap) :
    unitParse s = parseBytes (s.tin.toList.take s.tinlen.toNat) s := by
  simp [unitParse, inputBytes_of_le h]

theorem unitParse_of_gt {s : State} (h : Config.tinCap < s.tinlen.toNat) : unitParse s = .stopFault .lengthOutOfRange := by
  simp [unitParse, inputBytes_of_gt h]

/-- The end of a scan of exactly 17 symbols: the validation decides. -/
theorem finishScan_seventeen (cw : Vector Symbol 17) (s : State) :
    finishScan (.ended 17 cw) s =
      if syndromesZero (syndromes cw) then .done { s with cw := cw, clen := 17, syn := syndromes cw, valid := true }
      else .raised .codewordInvalid { s with cw := cw, clen := 17, syn := syndromes cw, valid := false } := by
  have h : finishScan (.ended 17 cw) s = validateParse { s with cw := cw, clen := 17 } := rfl
  rw [h, validateParse]
  generalize syndromes cw = S
  by_cases hz : syndromesZero S = true
  · rw [if_pos hz, if_pos hz, recordValidation, hz]
  · rw [if_neg hz, if_neg hz, recordValidation, Bool.eq_false_iff.mpr hz]

/-- Everything a parse can be, by the symbols it accepts. -/
theorem parseBytes_cases (bytes : List TextByte) (s : State) :
    let syms := (stripPrefix bytes).filterMap aidx
    let cw := placeFrom syms 0 (Vector.replicate 17 0)
    (17 < syms.length ∧ parseBytes bytes s = .raised .codewordTooLong { clearParse s with cw := cw, clen := 17 }) ∨
    (syms.length < 17 ∧ parseBytes bytes s =
      .raised .codewordInvalid { clearParse s with cw := cw, clen := BitVec.ofNat 5 syms.length }) ∨
    (syms.length = 17 ∧ syndromesZero (syndromes cw) = true ∧ parseBytes bytes s =
      .done { clearParse s with cw := cw, clen := 17, syn := syndromes cw, valid := true }) ∨
    (syms.length = 17 ∧ syndromesZero (syndromes cw) = false ∧ parseBytes bytes s =
      .raised .codewordInvalid { clearParse s with cw := cw, clen := 17, syn := syndromes cw, valid := false }) := by
  intro syms cw
  have he : parseBytes bytes s = finishScan (scanSymbols syms 0 (Vector.replicate 17 0)) (clearParse s) := by
    rw [parseBytes, scan_eq_scanSymbols]
  rw [scanSymbols_eq _ _ _ (by omega), Nat.zero_add, show placeFrom syms 0 (Vector.replicate 17 0) = cw from rfl] at he
  clear_value cw
  rcases Nat.lt_trichotomy syms.length 17 with h | h | h
  · exact .inr (.inl ⟨h, by rw [he]; simp [h, Nat.le_of_lt h, finishScan]⟩)
  · right; right
    rw [h, if_pos (Nat.le_refl 17), finishScan_seventeen] at he
    cases hz : syndromesZero (syndromes cw) with
    | true => exact .inl ⟨h, rfl, by rw [he, hz]; rfl⟩
    | false => exact .inr ⟨h, rfl, by rw [he, hz]; rfl⟩
  · exact .inl ⟨h, by rw [he]; simp [Nat.not_le.mpr h, finishScan]⟩

end Sys2Proof.Machine
end

