-- ==== Sys2Proof/Laws/Bus.lean ====
section
/-! SUPPORT. What a host transaction and a step can do. -/

namespace Sys2Proof.Machine

/-- `CMD` is the cell at address 1, and no other address names it. -/
theorem cellAt_eq_cmd (a : HostAddr) : cellAt a = some .cmd ↔ a = 0x001 := by
  revert a; decide +kernel

/-- Everything an event can do when it answers a next state. -/
theorem doEvent_cases {e : HostEvent} {s t : State} (h : doEvent e s = .next t) :
    (∃ a d, e = .rd a ∧ hostRead a s = some d ∧ t = answer (.okData d) s) ∨
    (∃ a, e = .rd a ∧ hostRead a s = none ∧ t = answer .err s) ∨
    (∃ a d c u, e = .wr a d ∧ cellAt a = some c ∧ writeCell c d s = some u ∧ t = answer .ok u) ∨
    (∃ a d, e = .wr a d ∧ t = answer .err s) ∨
    (∃ d i, e = .wr 0x001 d ∧ d.toNat ≤ 65535 ∧ decode (d.setWidth 16) = .command i ∧ exec i (answer .ok s) = .next t) ∨
    (∃ d y, e = .wr 0x001 d ∧ d.toNat ≤ 65535 ∧ decode (d.setWidth 16) = .illegal y ∧
      t = endWith .illegalCommand (answer .ok s)) ∨
    (e = .reset ∧ t = doReset s) := by
  cases e with
  | rd a =>
    simp only [doEvent, Host.Outcome.next.injEq, doRead] at h
    cases hr : hostRead a s with
    | none => rw [hr] at h; exact .inr (.inl ⟨a, rfl, hr, h.symm⟩)
    | some d => rw [hr] at h; exact .inl ⟨a, d, rfl, hr, h.symm⟩
  | reset =>
    simp only [doEvent, Host.Outcome.next.injEq] at h
    exact .inr (.inr (.inr (.inr (.inr (.inr ⟨rfl, h.symm⟩)))))
  | wr a d =>
    simp only [doEvent, doWrite] at h
    split at h
    · cases h; exact .inr (.inr (.inr (.inl ⟨a, d, rfl, rfl⟩)))
    · rename_i hc
      obtain rfl := (cellAt_eq_cmd a).mp hc
      split at h
      · rename_i hd
        simp only [issueWord] at h
        split at h
        · rename_i i hi
          exact .inr (.inr (.inr (.inr (.inl ⟨d, i, rfl, hd, hi, h⟩))))
        · rename_i y hy
          cases h
          exact .inr (.inr (.inr (.inr (.inr (.inl ⟨d, y, rfl, hd, hy, rfl⟩)))))
      · cases h; exact .inr (.inr (.inr (.inl ⟨_, d, rfl, rfl⟩)))
    · rename_i c _ hc
      split at h
      · rename_i u hu
        cases h; exact .inr (.inr (.inl ⟨a, d, c, u, rfl, hc, hu, rfl⟩))
      · cases h; exact .inr (.inr (.inr (.inl ⟨a, d, rfl, rfl⟩)))

/-- Everything a step can be: idle, or the oldest event. -/
theorem step_cases {s t : State} (h : step s = .next t) :
    (s.pending = [] ∧ t = s) ∨ ∃ e rest, s.pending = e :: rest ∧ doEvent e { s with pending := rest } = .next t := by
  simp only [step] at h
  split at h
  · rename_i hp; cases h; exact .inl ⟨hp, rfl⟩
  · rename_i e rest hp; exact .inr ⟨e, rest, hp, h⟩

theorem step_of_pending {s : State} {e : HostEvent} {rest : List HostEvent} (h : s.pending = e :: rest) :
    step s = doEvent e { s with pending := rest } := by
  simp only [step, h]

/-- Everything an accepted write of a cell can be. -/
theorem writeCell_cases {c : Cell} {d : HostData} {s t : State} (h : writeCell c d s = some t) :
    (c = .id ∧ t = { s with id := d }) ∨
    (∃ i, c = .cw i ∧ d.toNat ≤ 31 ∧ t = { s with cw := s.cw.set i (d.setWidth 5) }) ∨
    (∃ i, c = .tin i ∧ d.toNat ≤ 255 ∧ t = { s with tin := s.tin.set i (d.setWidth 8) }) ∨
    (c = .tinlen ∧ d.toNat ≤ Config.tinCap ∧ t = { s with tinlen := d.setWidth 7 }) := by
  cases c <;> simp only [writeCell, reduceCtorEq, Option.some.injEq, Option.ite_none_right_eq_some] at h <;> try contradiction
  · exact .inl ⟨rfl, h.symm⟩
  · exact .inr (.inr (.inr ⟨rfl, h.1, h.2.symm⟩))
  · exact .inr (.inl ⟨_, rfl, h.1, h.2.symm⟩)
  · exact .inr (.inr (.inl ⟨_, rfl, h.1, h.2.symm⟩))

end Sys2Proof.Machine
end

