-- ==== Sys2Proof/Laws/PerInstr.lean ====
section
/-! SUPPORT. A family of lemmas, one per command: the encoder gives a legal word of the command's own format, with its opcode in
bits 15:12 (R101 to R104 of 30_encoding.md). -/

namespace Sys2Proof.Laws.EncodesLegally

/-- The opcode of a command (R104). -/
def opcode : Instr → BitVec 4
  | .nop => 0
  | .ddd => 1
  | .r10t32 => 2
  | .r32t10 => 3
  | .dacc => 4
  | .gfmul _ _ => 5
  | .rsenc => 6
  | .rschk => 7
  | .fmt => 8
  | .parse => 9
  | .encode => 10
  | .decode => 11
  | .clr => 12

/-- The word of `i` is legal and carries `i`'s opcode. -/
def Statement (i : Instr) : Prop := CmdWord.legal (Sys2Proof.encode i) = true ∧ opField (Sys2Proof.encode i) = opcode i

theorem nop : Statement .nop := ⟨by decide, by decide⟩
theorem ddd : Statement .ddd := ⟨by decide, by decide⟩
theorem r10t32 : Statement .r10t32 := ⟨by decide, by decide⟩
theorem r32t10 : Statement .r32t10 := ⟨by decide, by decide⟩
theorem dacc : Statement .dacc := ⟨by decide, by decide⟩
theorem gfmul (a b : Symbol) : Statement (.gfmul a b) := by
  revert a b; simp only [Statement]; decide +kernel
theorem rsenc : Statement .rsenc := ⟨by decide, by decide⟩
theorem rschk : Statement .rschk := ⟨by decide, by decide⟩
theorem fmt : Statement .fmt := ⟨by decide, by decide⟩
theorem parse : Statement .parse := ⟨by decide, by decide⟩
theorem encode : Statement .encode := ⟨by decide, by decide⟩
theorem decode : Statement .decode := ⟨by decide, by decide⟩
theorem clr : Statement .clr := ⟨by decide, by decide⟩

end Sys2Proof.Laws.EncodesLegally
end

