-- ==== Sys2Proof/Laws/Safety.lean ====
section
/-! SUPPORT. How the terms of Sys2Proof/Safety.lean meet the operations of Sys2Proof/Machine: the digits, the input string, the
accepted symbols and the places of the characters. -/

namespace Sys2Proof.Machine

/-- The digits a command reads are the digits claims speak of, where `DLEN` bounds the buffer (R22). -/
theorem decDigits_eq_decimal {s : State} (h : s.dlen.toNat ≤ 20) : decDigits s = some s.decimal := decDigits_of_le h

/-- The string a command reads is the string claims speak of, where `TINLEN` bounds the buffer (R32). -/
theorem inputBytes_eq_inputString {s : State} (h : s.tinlen.toNat ≤ Config.tinCap) : inputBytes s = some s.inputString :=
  inputBytes_of_le h

/-- The symbols a parse accepts (R241, R243). -/
theorem acceptedSymbols_eq (bytes : List TextByte) : acceptedSymbols bytes = (stripPrefix bytes).filterMap aidx := rfl

/-- The byte at `tpos(i)` shows the `i`-th character (R116, R231). -/
theorem textByteAt_tpos (cw : Vector Symbol 17) (i : Fin 17) : textByteAt cw (tpos i) = shownChar cw i := by
  have h1 : ¬ (tpos i).val < 6 := by simp only [tpos]; omega
  have h2 : ¬ ((tpos i).val = 10 ∨ (tpos i).val = 15 ∨ (tpos i).val = 20) := by simp only [tpos]; omega
  rw [textByteAt, dif_neg h1, if_neg h2]
  congr 1
  apply Fin.ext
  simp only [tpos]
  omega

/-- A placement from the first place on is the one claims speak of (R245, R246). -/
theorem placeFrom_isPlacement (syms : List Symbol) : IsPlacement syms (placeFrom syms 0 (Vector.replicate 17 0)) := by
  intro n
  rw [placeFrom_getElem]
  simp

end Sys2Proof.Machine
end

