-- ==== Sys2Proof/Tests/Slice0.lean ====
section
/-! SUPPORT. The model's own tests: words written out from the encoding, ill-formed terms, one step per command with the values of
95_test_vectors.md and R325, and a witness for the hypotheses of each statement that has some. -/

open Sys2Proof Sys2Proof.Machine

namespace Sys2Proof.Tests

/-! ### Helpers -/

/-- The outcome is the next state `t`. -/
def endsIn (o : Host.Outcome State Fault Refusal) (t : State) : Bool :=
  match o with
  | .next s => decide (s = t)
  | .fault _ => false
  | .refused _ => false

theorem eq_next_of_endsIn {o : Host.Outcome State Fault Refusal} {t : State} (h : endsIn o t = true) : o = .next t := by
  cases o with
  | next s => simpa [endsIn] using h
  | fault r => cases h
  | refused r => cases h

/-- The reset state with a string in `TIN`. -/
def withText (text : List TextByte) : State :=
  { State.reset with tin := Vector.ofFn fun k => text.getD k.val 0, tinlen := BitVec.ofNat 7 text.length }

/-- The reset state with digits in `DEC`. -/
def withDigits (d : List Nat) : State := { State.reset with dec := decCells d, dlen := BitVec.ofNat 5 d.length }

/-- The reset state with a codeword. -/
def withCw (cw : Vector Symbol 17) : State := { State.reset with cw := cw }

/-- The reset state with one event to come. -/
def withEvent (e : HostEvent) : State := { State.reset with pending := [e] }

/-- The codeword of the known vector (V1). -/
def knownCw : Vector Symbol 17 := #v[0, 6, 7, 9, 2, 14, 25, 30, 10, 3, 3, 11, 0, 31, 24, 0, 13]

/-- `BURST-B982-YTG4-ZS2F-2C55D` (V1). -/
def knownText : List TextByte :=
  [0x42, 0x55, 0x52, 0x53, 0x54, 0x2D, 0x42, 0x39, 0x38, 0x32, 0x2D, 0x59, 0x54, 0x47, 0x34, 0x2D, 0x5A, 0x53, 0x32, 0x46, 0x2D,
    0x32, 0x43, 0x35, 0x35, 0x44]

/-- A valid codeword whose value is 2^64 (V15 last row but one, V19). -/
def overflowCw : Vector Symbol 17 := #v[0, 0, 0, 0, 0, 0, 0, 0, 0, 0, 0, 0, 16, 25, 19, 25, 7]

/-- The text of `overflowCw`, without the prefix and the dashes (R241, R243). -/
def overflowText : List TextByte :=
  [0x32, 0x32, 0x32, 0x32, 0x32, 0x32, 0x32, 0x32, 0x54, 0x4D, 0x54, 0x39, 0x4A, 0x32, 0x32, 0x32, 0x32]

/-- The known text with its first character `B` changed to `C` (V7). -/
def changedText : List TextByte := knownText.set 6 0x43

/-! ### Decoding: words written out from R102 to R104, and reserved words -/

theorem test_decode_nop : decode 0b0000000000000000 = .command .nop := by decide
theorem test_decode_ddd : decode 0b0001000000000000 = .command .ddd := by decide
theorem test_decode_r10t32 : decode 0b0010000000000000 = .command .r10t32 := by decide
theorem test_decode_r32t10 : decode 0b0011000000000000 = .command .r32t10 := by decide
theorem test_decode_dacc : decode 0b0100000000000000 = .command .dacc := by decide
theorem test_decode_gfmul : decode 0b0101001000101001 = .command (.gfmul 17 9) := by decide
theorem test_decode_rsenc : decode 0b0110000000000000 = .command .rsenc := by decide
theorem test_decode_rschk : decode 0b0111000000000000 = .command .rschk := by decide
theorem test_decode_fmt : decode 0b1000000000000000 = .command .fmt := by decide
theorem test_decode_parse : decode 0b1001000000000000 = .command .parse := by decide
theorem test_decode_encode : decode 0b1010000000000000 = .command .encode := by decide
theorem test_decode_decode : decode 0b1011000000000000 = .command .decode := by decide
theorem test_decode_clr : decode 0b1100000000000000 = .command .clr := by decide
theorem test_decode_gfmul_last : decode 0b0101001111111111 = .command (.gfmul 31 31) := by decide
theorem test_decode_reserved_opcodes :
    decode 0xD000 = .illegal .reservedOpcode ∧ decode 0xE000 = .illegal .reservedOpcode ∧
    decode 0xF000 = .illegal .reservedOpcode := by decide
theorem test_decode_mbz_G : decode 0x5400 = .illegal .mbzOfFormatG ∧ decode 0x5800 = .illegal .mbzOfFormatG := by decide
theorem test_decode_mbz_Z : decode 0x0001 = .illegal .mbzOfFormatZ ∧ decode 0xC800 = .illegal .mbzOfFormatZ := by decide
theorem test_decodeTableWord : decodeTableWord 16 0x5229 = some (.gfmul 17 9) ∧ decodeTableWord 16 0xD000 = none := by decide

/-! ### WellFormed: each check refuses an ill-formed term -/

theorem test_wf_refuses_opcode_13 : CmdWord.legal 0xD000 = false := by decide
theorem test_wf_refuses_mbz_of_format_Z : CmdWord.legal 0x1001 = false := by decide
theorem test_wf_refuses_mbz_of_format_G : CmdWord.legal 0x5400 = false := by decide
theorem test_wf_refuses_long_string : (HostStatement.ldstr (List.replicate 65 0x41)).wf = false := by decide
theorem test_wf_accepts_full_string : (HostStatement.ldstr (List.replicate 64 0x41)).wf = true := by decide

/-! ### One step per command, by R325 and 95_test_vectors.md -/

theorem test_nop_after_failed_parse :
    step ({ State.reset with code := 2 }.withFetchWord 16 0x0000) = .next { State.reset with response := some .ok } :=
  eq_next_of_endsIn (by decide +kernel)

/-- V5. -/
theorem test_ddd_known : exec .ddd { State.reset with id := 399812073269533888 } = .next { State.reset with
    id := 399812073269533888, dec := #v[3, 9, 9, 8, 1, 2, 0, 7, 3, 2, 6, 9, 5, 3, 3, 8, 8, 8, 0, 0], dlen := 18 } :=
  eq_next_of_endsIn (by decide +kernel)

/-- R160's example. -/
theorem test_r10t32_1000 : exec .r10t32 (withDigits [1, 0, 0, 0]) = .next { withDigits [1, 0, 0, 0] with
    cw := #v[8, 31, 0, 0, 0, 0, 0, 0, 0, 0, 0, 0, 0, 0, 0, 0, 0], passes := 2 } :=
  eq_next_of_endsIn (by decide +kernel)

/-- R165: the largest value has 20 digits. -/
theorem test_r32t10_largest : exec .r32t10 (withCw (Vector.replicate 17 31)) = .next { withCw (Vector.replicate 17 31) with
    dec := #v[3, 6, 8, 9, 3, 4, 8, 8, 1, 4, 7, 4, 1, 9, 1, 0, 3, 2, 3, 1], dlen := 20, passes := 20 } :=
  eq_next_of_endsIn (by decide +kernel)

/-- R135: the largest value that fits, and the next one. -/
theorem test_dacc_largest :
    exec .dacc (withDigits [1, 8, 4, 4, 6, 7, 4, 4, 0, 7, 3, 7, 0, 9, 5, 5, 1, 6, 1, 5]) = .next { withDigits
      [1, 8, 4, 4, 6, 7, 4, 4, 0, 7, 3, 7, 0, 9, 5, 5, 1, 6, 1, 5] with id := 0xFFFFFFFFFFFFFFFF } :=
  eq_next_of_endsIn (by decide +kernel)

theorem test_dacc_overflow :
    exec .dacc (withDigits [1, 8, 4, 4, 6, 7, 4, 4, 0, 7, 3, 7, 0, 9, 5, 5, 1, 6, 1, 6]) = .next { withDigits
      [1, 8, 4, 4, 6, 7, 4, 4, 0, 7, 3, 7, 0, 9, 5, 5, 1, 6, 1, 6] with code := 3 } :=
  eq_next_of_endsIn (by decide +kernel)

/-- R183's examples. -/
theorem test_gfmul_17_9 : step (State.reset.withFetchWord 16 0x5229) = .next { State.reset with gp := 13, response := some .ok } :=
  eq_next_of_endsIn (by decide +kernel)

theorem test_gfmul_18_18 : exec (.gfmul 18 18) State.reset = .next { State.reset with gp := 9 } :=
  eq_next_of_endsIn (by decide +kernel)

/-- V15, row 5. -/
theorem test_rsenc_counting :
    exec .rsenc (withCw #v[0, 1, 2, 3, 4, 5, 6, 7, 8, 9, 10, 11, 12, 1, 2, 3, 4]) = .next { State.reset with
      cw := #v[0, 1, 2, 3, 4, 5, 6, 7, 8, 9, 10, 11, 12, 6, 30, 1, 6], p := #v[6, 30, 1, 6] } :=
  eq_next_of_endsIn (by decide +kernel)

/-- R212's examples. -/
theorem test_rschk_valid : exec .rschk (withCw knownCw) = .next { withCw knownCw with valid := true } :=
  eq_next_of_endsIn (by decide +kernel)

theorem test_rschk_invalid : exec .rschk { withCw (knownCw.set 16 12) with valid := true } = .next { withCw (knownCw.set 16 12) with
    syn := #v[18, 9, 22, 11] } :=
  eq_next_of_endsIn (by decide +kernel)

/-- V1. -/
theorem test_fmt_known : exec .fmt (withCw knownCw) = .next { withCw knownCw with
    tout := Vector.ofFn fun k => knownText.getD k.val 0, toutlen := 26 } :=
  eq_next_of_endsIn (by decide +kernel)

/-- R325, and V7 (first row). -/
theorem test_parse_first : step (State.reset.withFetchWord 16 0x9000) = .next { State.reset with code := 2, response := some .ok } :=
  eq_next_of_endsIn (by decide +kernel)

theorem test_parse_changed : exec .parse (withText changedText) = .next { withText changedText with
    cw := knownCw.set 3 10, clen := 17, syn := #v[24, 30, 11, 18], code := 2 } :=
  eq_next_of_endsIn (by decide +kernel)

/-- V1. -/
theorem test_encode_known : exec .encode { State.reset with id := 399812073269533888 } = .next { State.reset with
    id := 399812073269533888, dec := #v[3, 9, 9, 8, 1, 2, 0, 7, 3, 2, 6, 9, 5, 3, 3, 8, 8, 8, 0, 0], dlen := 18, cw := knownCw
    passes := 12, p := #v[31, 24, 0, 13], tout := Vector.ofFn fun k => knownText.getD k.val 0, toutlen := 26 } :=
  eq_next_of_endsIn (by decide +kernel)

/-- V1, and V8: an 18th character. -/
theorem test_decode_known_text : exec .decode (withText knownText) = .next { withText knownText with
    cw := knownCw, clen := 17, valid := true, passes := 18, dlen := 18, id := 399812073269533888
    dec := #v[3, 9, 9, 8, 1, 2, 0, 7, 3, 2, 6, 9, 5, 3, 3, 8, 8, 8, 0, 0] } :=
  eq_next_of_endsIn (by decide +kernel)

theorem test_decode_too_long : exec .decode { withText (knownText ++ [0x32]) with id := 9 } = .next { withText (knownText ++ [0x32]) with
    id := 9, cw := knownCw, clen := 17, code := 1 } :=
  eq_next_of_endsIn (by decide +kernel)

theorem test_clr : exec .clr { withText knownText with id := 9, cw := knownCw, valid := true, code := 3, gp := 4 } = .next State.reset :=
  eq_next_of_endsIn (by decide +kernel)

/-! ### Transactions, by V22 -/

theorem test_read_dlen : step (withEvent (.rd 0x003)) = .next { State.reset with response := some (.okData 1) } :=
  eq_next_of_endsIn (by decide +kernel)
theorem test_read_status_zero_extended :
    hostRead 0x002 { State.reset with valid := true, code := 3 } = some 0x13 := by decide
theorem test_read_of_cmd_is_refused : step (withEvent (.rd 0x001)) = .next { State.reset with response := some .err } :=
  eq_next_of_endsIn (by decide +kernel)
theorem test_write_of_readonly_is_refused : step (withEvent (.wr 0x300 1)) = .next { State.reset with response := some .err } :=
  eq_next_of_endsIn (by decide +kernel)
theorem test_wide_command_is_refused : step (withEvent (.wr 0x001 65536)) = .next { State.reset with response := some .err } :=
  eq_next_of_endsIn (by decide +kernel)
theorem test_reserved_word_is_answered_ok :
    step (withEvent (.wr 0x001 0xFFFF)) = .next { State.reset with code := 4, response := some .ok } :=
  eq_next_of_endsIn (by decide +kernel)
theorem test_idle : step State.reset = .next State.reset := eq_next_of_endsIn (by decide +kernel)
/-- R119: `LDSTR "B9"`. -/
theorem test_ldstr : expand (.ldstr [0x42, 0x39]) = [.wr 0x500 0x42, .wr 0x501 0x39, .wr 0x007 2] := by decide
/-- R74 to R79, one cell of each table. -/
theorem test_tables_read : ([0x80D, 0x82D, 0x848, 0x872, 0x883, 0x895].map fun a => hostRead a State.reset) =
    [some 28, some 8, some 13, some 0x4C, some 30, some 0x2D] := by decide

/-! ### Witnesses: a state and operands that meet each statement's hypotheses -/

/-- A state that is not the reset state: 1000 in `DEC`, a valid codeword in `CW`, its text in `TIN`, an event to come. -/
def sample : State :=
  { withText knownText with
    dec := decCells [1, 0, 0, 0], dlen := 4, cw := knownCw, clen := 17, valid := true, code := 3, passes := 20, toutlen := 26
    pending := [.wr 0x001 0xB000, .rd 0x000] }

theorem wit_inv : sample.Inv :=
  ⟨⟨by decide, by decide, by decide, by decide, by decide⟩, ⟨by decide, by decide, by decide, by decide, by decide +kernel⟩⟩

theorem wit_EveryStepKeepsTheInvariant : ∃ t, sample.Inv ∧ step sample = .next t :=
  ⟨{ sample with
      id := 399812073269533888, dec := #v[3, 9, 9, 8, 1, 2, 0, 7, 3, 2, 6, 9, 5, 3, 3, 8, 8, 8, 0, 0], dlen := 18, passes := 18
      code := 0, pending := [.rd 0x000], response := some .ok }, wit_inv, eq_next_of_endsIn (by decide +kernel)⟩

theorem wit_NoRunFromALegalStateStops : ∃ s : State, s.Inv := ⟨sample, wit_inv⟩

/-- The largest value that `CommandsCompleteInEveryLegalState` admits, 2^65 - 1, and the largest lengths. -/
def fullState : State :=
  { withDigits [3, 6, 8, 9, 3, 4, 8, 8, 1, 4, 7, 4, 1, 9, 1, 0, 3, 2, 3, 1] with tinlen := 64 }

theorem wit_CommandsCompleteInEveryLegalState :
    fullState.dlen.toNat = 20 ∧ fullState.tinlen.toNat = Config.tinCap ∧ fullState.decValue + 1 = 2 ^ 65 := by decide +kernel

theorem wit_StopsStandOutsideTheLegalStates :
    ({ State.reset with dlen := 21 } : State).dlen.toNat = 21 ∧ ({ State.reset with tinlen := 65 } : State).tinlen.toNat = 65 ∧
    (withDigits [3, 6, 8, 9, 3, 4, 8, 8, 1, 4, 7, 4, 1, 9, 1, 0, 3, 2, 3, 2]).dlen.toNat ≤ 20 ∧
    (withDigits [3, 6, 8, 9, 3, 4, 8, 8, 1, 4, 7, 4, 1, 9, 1, 0, 3, 2, 3, 2]).decValue = 2 ^ 65 := by decide +kernel

theorem wit_StepRunsTheDecodedCommand :
    (withEvent (.wr 0x001 0x53FF)).pending = .wr 0x001 0x53FF :: [] ∧ (0x53FF : HostData).toNat ≤ 65535 ∧
    decode ((0x53FF : HostData).setWidth 16) = .command (.gfmul 31 31) := by decide

theorem wit_IllegalWordOnlyWritesTheCode :
    (withEvent (.wr 0x001 0xFFFF)).pending = .wr 0x001 0xFFFF :: [] ∧
    ([0x0001, 0x4FFF, 0x5400, 0xC001, 0xD000, 0xFFFF] : List HostData).all
      (fun d => d.toNat ≤ 65535 && CmdWord.legal (d.setWidth 16) == false) = true := by decide

theorem wit_ReadTransactionOnlyAnswers :
    hostRead 0x895 (withEvent (.rd 0x895)) = some 0x2D ∧ hostRead 0x896 (withEvent (.rd 0x896)) = none ∧
    (withEvent (.rd 0x895)).pending = .rd 0x895 :: [] := by decide

theorem wit_HostReadsFollowTheAddressMap :
    ([0x009, 0x0FF, 0x114, 0x211, 0x304, 0x30F, 0x314, 0x41A, 0x540, 0x7FF, 0x851, 0x85F, 0x884, 0x88F, 0x896, 0xFFF] :
      List HostAddr).all (fun a => mappedAddr a.toNat == false) = true ∧
    cellAt 0x53F = some (.tin 63) := by decide

theorem wit_AcceptedWriteReplacesOneCell :
    acceptedWrite 0x000 (2 ^ 64 - 1) = true ∧ acceptedWrite 0x007 64 = true ∧ acceptedWrite 0x210 31 = true ∧
    acceptedWrite 0x53F 255 = true ∧ (withEvent (.wr 0x53F 255)).pending = .wr 0x53F 255 :: [] := by decide

theorem wit_RefusedTransactionChangesNothing :
    acceptedWrite 0x007 65 = false ∧ acceptedWrite 0x210 32 = false ∧ acceptedWrite 0x53F 256 = false ∧
    acceptedWrite 0x540 0 = false ∧ acceptedWrite 0x002 0 = false ∧ acceptedWrite 0x001 65536 = false ∧
    ¬ ((0x001 : HostAddr) = 0x001 ∧ (65536 : HostData).toNat ≤ 65535) ∧
    ¬ ((0x210 : HostAddr) = 0x001 ∧ (32 : HostData).toNat ≤ 65535) ∧ mappedAddr 0xFFF = false ∧
    (withEvent (.rd 0xFFF)).pending = .rd 0xFFF :: [] := by decide

theorem wit_ResetEventGivesTheResetState :
    ({ sample with pending := [.reset, .rd 0x003] } : State).pending = .reset :: [.rd 0x003] := rfl

theorem wit_TablesAreConstantAndConsistent :
    0x800 ≤ (0x800 : HostAddr).toNat ∧ (31 : Symbol) ≠ 0 ∧ alphaTable[(31 : Fin 32)] = alphaTable[(31 : Fin 32)] := by decide

theorem wit_DecodeInvertsEncode : (Instr.gfmul 31 0).wf = true := rfl

theorem wit_DecodeAcceptsExactlyTheLegalWords : decode 0x53FF = .command (.gfmul 31 31) := by decide

theorem wit_MnemonicLineRunsItsCommand :
    ({ State.reset with pending := [.wr 0x001 0x5229, .rd 0x006] } : State).pending = expand (.cmd (.gfmul 17 9)) ++ [.rd 0x006] := by
  decide +kernel

theorem wit_DddWritesTheDecimalDigits : State.reset.id = 0 ∧ ({ State.reset with id := 10 } : State).id ≠ 0 := by decide

theorem wit_DaccStoresTheValueOrOverflows :
    (withDigits [1, 8, 4, 4, 6, 7, 4, 4, 0, 7, 3, 7, 0, 9, 5, 5, 1, 6, 1, 5]).dlen.toNat ≤ 20 ∧
    (withDigits [1, 8, 4, 4, 6, 7, 4, 4, 0, 7, 3, 7, 0, 9, 5, 5, 1, 6, 1, 5]).decValue + 1 = 2 ^ 64 ∧
    (withDigits [1, 8, 4, 4, 6, 7, 4, 4, 0, 7, 3, 7, 0, 9, 5, 5, 1, 6, 1, 6]).dlen.toNat ≤ 20 ∧
    (withDigits [1, 8, 4, 4, 6, 7, 4, 4, 0, 7, 3, 7, 0, 9, 5, 5, 1, 6, 1, 6]).decValue = 2 ^ 64 := by decide +kernel

theorem wit_PassDividesByTheBase : 1 ≤ 32 ∧ ∀ x ∈ [3, 0, 9], x < 10 := by decide

theorem wit_ConversionPreservesTheValue :
    2 ≤ 10 ∧ 2 ≤ 32 ∧ (∀ x ∈ [1, 0, 9], x < 10) ∧ val 10 [1, 0, 9] ≠ 0 ∧ val 10 [0, 0] = 0 ∧ 1 < (rconv 10 32 [1, 0, 9]).2 := by decide

theorem wit_AllZeroInputTakesOnePass : 1 ≤ 1 := Nat.le_refl 1

theorem wit_R10t32ConvertsTheDigitsToSymbols :
    fullState.dlen.toNat ≤ 20 ∧ fullState.decValue < 2 ^ 65 ∧ fullState.decValue ≠ 0 ∧ State.reset.dlen.toNat ≤ 20 ∧
    State.reset.decValue = 0 := by decide +kernel

theorem wit_ConversionsUndoEachOther : sample.DecimalForm := wit_inv.decimal

theorem wit_GfmulMultipliesByTheTables : ((0 : Symbol) = 0 ∨ (31 : Symbol) = 0) ∧ ¬ ((1 : Symbol) = 0 ∨ (31 : Symbol) = 0) := by decide

theorem wit_FieldLawsHold : gmul 31 0 = 0 ∧ (31 : Symbol) ≠ 0 := by decide

theorem wit_ValidCodeword : ValidCodeword knownCw ∧ ¬ ValidCodeword (knownCw.set 0 1) := by
  simp only [ValidCodeword]; decide +kernel

theorem wit_UpToFourChangedSymbolsAreDetected :
    exec .rschk (withCw knownCw) = .next { withCw knownCw with valid := true } ∧
    placesChanged (withCw knownCw).cw (knownCw.set 0 1) = 1 ∧
    placesChanged (withCw knownCw).cw #v[1, 7, 8, 10, 2, 14, 25, 30, 10, 3, 3, 11, 0, 31, 24, 0, 13] = 4 :=
  ⟨test_rschk_valid, by decide, by decide⟩

theorem wit_FmtIsInjective :
    exec .fmt (withCw knownCw) = .next { withCw knownCw with
      tout := Vector.ofFn fun k => knownText.getD k.val 0, toutlen := 26 } ∧
    exec .fmt { withCw knownCw with id := 1 } = .next { withCw knownCw with
      id := 1, tout := Vector.ofFn fun k => knownText.getD k.val 0, toutlen := 26 } :=
  ⟨test_fmt_known, eq_next_of_endsIn (by decide +kernel)⟩

/-- Exactly 17 accepted symbols and their placement. -/
def parsesTo (text : List TextByte) (cw : Vector Symbol 17) : Prop :=
  (withText text).tinlen.toNat ≤ Config.tinCap ∧ (acceptedSymbols (withText text).inputString).length = 17 ∧
  IsPlacement (acceptedSymbols (withText text).inputString) cw

theorem wit_ParseAcceptsAValidCodeword : parsesTo knownText knownCw ∧ ValidCodeword knownCw := by
  simp only [parsesTo, IsPlacement, ValidCodeword]; decide +kernel

theorem wit_ParseRejectsAnInvalidCodeword : parsesTo changedText (knownCw.set 3 10) ∧ ¬ ValidCodeword (knownCw.set 3 10) := by
  simp only [parsesTo, IsPlacement, ValidCodeword]; decide +kernel

/-- Sixteen symbols, and none. -/
theorem wit_ParseRejectsTooFewSymbols :
    ((withText (knownText.take 25)).tinlen.toNat ≤ Config.tinCap ∧
      (acceptedSymbols (withText (knownText.take 25)).inputString).length = 16 ∧
      IsPlacement (acceptedSymbols (withText (knownText.take 25)).inputString) (knownCw.set 11 0)) ∧
    (acceptedSymbols State.reset.inputString).length = 0 ∧
    IsPlacement (acceptedSymbols State.reset.inputString) (Vector.replicate 17 0) := by
  simp only [IsPlacement]; decide +kernel

theorem wit_ParseRejectsTooManySymbols :
    (withText (knownText ++ [0x32])).tinlen.toNat ≤ Config.tinCap ∧
    (acceptedSymbols (withText (knownText ++ [0x32])).inputString).length = 18 ∧
    IsPlacement (acceptedSymbols (withText (knownText ++ [0x32])).inputString) knownCw := by
  simp only [IsPlacement]; decide +kernel

/-- The known text, and the same with spaces for the dashes between the groups and foreign bytes at its end (R243). -/
def looseText : List TextByte := (((knownText.set 10 0x20).set 15 0x20).set 20 0x20) ++ [0x30, 0x4F, 0x31, 0x49, 0x21, 0x3F]

theorem wit_ParseSkipsForeignBytes :
    (withText knownText).tinlen.toNat ≤ Config.tinCap ∧ (withText looseText).tinlen.toNat ≤ Config.tinCap ∧
    withText looseText = { withText knownText with tin := (withText looseText).tin, tinlen := (withText looseText).tinlen } ∧
    (stripPrefix (withText knownText).inputString).filter (fun c => (aidx c).isSome) =
      (stripPrefix (withText looseText).inputString).filter (fun c => (aidx c).isSome) ∧
    (withText knownText).tin ≠ (withText looseText).tin := by decide +kernel

theorem wit_ParseUndoesFmt : ValidCodeword (withCw knownCw).cw ∧ ¬ ValidCodeword (withCw (knownCw.set 0 1)).cw := wit_ValidCodeword

theorem wit_DecodeIsItsUnitCommands :
    exec .parse (withText changedText) = .next { withText changedText with
      cw := knownCw.set 3 10, clen := 17, syn := #v[24, 30, 11, 18], code := 2 } ∧
    exec .parse (withText knownText) = .next { withText knownText with cw := knownCw, clen := 17, valid := true } :=
  ⟨test_parse_changed, eq_next_of_endsIn (by decide +kernel)⟩

theorem wit_DecodeReadsAValidAddress :
    parsesTo knownText knownCw ∧ ValidCodeword knownCw ∧ symbolsValue knownCw < 2 ^ 64 := by
  simp only [parsesTo, IsPlacement, ValidCodeword]; decide +kernel

theorem wit_DecodeReportsAnOverflow :
    parsesTo overflowText overflowCw ∧ ValidCodeword overflowCw ∧ symbolsValue overflowCw = 2 ^ 64 := by
  simp only [parsesTo, IsPlacement, ValidCodeword]; decide +kernel

theorem wit_EncodeWritesTheAddressOfId : State.reset.id = 0 ∧ ({ State.reset with id := 0xFFFFFFFFFFFFFFFF } : State).id ≠ 0 := by decide

theorem wit_SubstitutedAddressIsRejected :
    ValidCodeword knownCw ∧ placesChanged knownCw (knownCw.set 3 10) = 1 ∧
    IsTextOf (Vector.ofFn fun k => changedText.getD k.val 0) (knownCw.set 3 10) ∧
    (∀ k : Fin 26, (withText changedText).tin[k.val] = (Vector.ofFn fun j : Fin 26 => changedText.getD j.val 0)[k.val]) ∧
    (withText changedText).tinlen = 26 := by
  simp only [ValidCodeword, IsTextOf]; decide +kernel

theorem wit_CommandsWriteOnlyTheirCells :
    exec .fmt (withCw knownCw) = .next { withCw knownCw with
      tout := Vector.ofFn fun k => knownText.getD k.val 0, toutlen := 26 } ∧ writesAddr .fmt 0x200 = false :=
  ⟨test_fmt_known, by decide⟩

theorem wit_OutcomesAndFlagByCommand :
    exec .decode (withText (knownText ++ [0x32])) = .next { withText (knownText ++ [0x32]) with cw := knownCw, clen := 17, code := 1 } :=
  eq_next_of_endsIn (by decide +kernel)

theorem wit_IdIsWrittenOnlyByASuccess :
    exec .decode (withText knownText) = .next { withText knownText with
      cw := knownCw, clen := 17, valid := true, passes := 18, dlen := 18, id := 399812073269533888
      dec := #v[3, 9, 9, 8, 1, 2, 0, 7, 3, 2, 6, 9, 5, 3, 3, 8, 8, 8, 0, 0] } ∧
    (399812073269533888 : BitVec 64) ≠ (withText knownText).id :=
  ⟨test_decode_known_text, by decide⟩

theorem wit_ValidFlagMatchesTheSyndromes :
    ({ withEvent (.wr 0x001 0x7000) with valid := true } : State).ValidMeansZero ∧
    step { withEvent (.wr 0x001 0x7000) with valid := true } = .next { State.reset with valid := true, response := some .ok } :=
  ⟨by simp only [State.ValidMeansZero]; decide, eq_next_of_endsIn (by decide +kernel)⟩

end Sys2Proof.Tests
end

/-! ## Digit sequences: the canonical form of R131 and R155 -/

namespace Sys2Proof.Machine

/-- A digit sequence as R131 and R155 leave it: digits of base `b`, at least one, and no leading zero unless it is the only digit. -/
structure Canonical (b : Nat) (d : List Nat) : Prop where
  digits : ∀ x ∈ d, x < b
  ne_nil : d ≠ []
  leading : d.length = 1 ∨ d.head? ≠ some 0

theorem canonical_singleton {b x : Nat} (h : x < b) : Canonical b [x] := ⟨by simpa using h, by simp, .inl rfl⟩

theorem Canonical.length_pos {b : Nat} {d : List Nat} (h : Canonical b d) : 0 < d.length := List.length_pos_of_ne_nil h.ne_nil

/-- Every place holds a digit, the places beyond the sequence 0. -/
theorem Canonical.getD_lt {b : Nat} {d : List Nat} (h : Canonical b d) (k : Nat) : d.getD k 0 < b := by
  rcases Nat.lt_or_ge k d.length with hk | hk
  · rw [List.getD_eq_getElem _ _ hk]; exact h.digits _ (List.getElem_mem hk)
  · rw [List.getD_eq_default _ _ hk]; exact Nat.zero_lt_of_lt (h.digits _ (List.getElem_mem h.length_pos))

/-- Only the single digit 0 begins with a zero, and its value is 0. -/
theorem Canonical.head_ne_zero {b : Nat} {d : List Nat} (h : Canonical b d) (hv : val b d ≠ 0) : d.head? ≠ some 0 := by
  cases d with
  | nil => simp
  | cons x xs =>
    rcases h.leading with hl | hl
    · obtain rfl : xs = [] := by simpa using hl
      simpa using hv
    · exact hl

/-- A less significant digit put behind a canonical sequence that is not the single 0. -/
theorem Canonical.concat {b r : Nat} {d : List Nat} (h : Canonical b d) (hv : val b d ≠ 0) (hr : r < b) :
    Canonical b (d ++ [r]) where
  digits x hx := by
    rcases List.mem_append.mp hx with hx | hx
    · exact h.digits x hx
    · rw [List.mem_singleton.mp hx]; exact hr
  ne_nil := by simp
  leading := by
    rw [List.head?_append_of_ne_nil _ h.ne_nil]
    exact .inr (h.head_ne_zero hv)

/-- A canonical sequence has no more digits than its value needs. -/
theorem Canonical.length_le {b n : Nat} {d : List Nat} (h : Canonical b d) (hb : 1 < b) (hn : 1 ≤ n) (hv : val b d < b ^ n) :
    d.length ≤ n := by
  rcases h.leading with hl | hl
  · omega
  · cases d with
    | nil => exact Nat.zero_le n
    | cons x xs =>
      have hw : b ^ xs.length < b ^ n := lt_of_le_of_lt (le_val_cons (by simpa using hl)) hv
      exact (Nat.pow_lt_pow_iff_right hb).mp hw

/-! ## One pass of the converter (R152, R153) -/

/-- Once a quotient digit is stored, every digit read stores one. -/
theorem passFrom_stored_length (b1 b2 acc : Nat) (ws : List Nat) : (passFrom b1 b2 acc true ws).1.length = ws.length := by
  induction ws generalizing acc with
  | nil => rfl
  | cons w ws ih =>
    by_cases h : b2 ≤ acc * b1 + w
    · simp [passFrom_cons_ge true ws h, ih]
    · simp [passFrom_cons_lt_stored ws (Nat.lt_of_not_le h), ih]

/-- Quotient and remainder make up the value that was still to be divided. -/
theorem passFrom_val (b1 b2 acc : Nat) (stored : Bool) (ws : List Nat) :
    acc * b1 ^ ws.length + val b1 ws =
      val b1 (passFrom b1 b2 acc stored ws).1 * b2 + (passFrom b1 b2 acc stored ws).2 := by
  induction ws generalizing acc stored with
  | nil => simp
  | cons w ws ih =>
    have hsplit : acc * b1 ^ (w :: ws).length + val b1 (w :: ws) = (acc * b1 + w) * b1 ^ ws.length + val b1 ws := by
      rw [val_cons, List.length_cons]; ring
    rw [hsplit]
    by_cases h : b2 ≤ acc * b1 + w
    · rw [passFrom_cons_ge stored ws h, val_cons, passFrom_stored_length]
      have hrest := ih ((acc * b1 + w) % b2) true
      have hdiv := Nat.div_add_mod (acc * b1 + w) b2
      generalize acc * b1 + w = t at hrest hdiv ⊢
      calc t * b1 ^ ws.length + val b1 ws
          = (b2 * (t / b2) + t % b2) * b1 ^ ws.length + val b1 ws := by rw [hdiv]
        _ = b2 * (t / b2) * b1 ^ ws.length + (t % b2 * b1 ^ ws.length + val b1 ws) := by ring
        _ = _ := by rw [hrest]; ring
    · cases stored with
      | true => simpa [passFrom_cons_lt_stored ws (Nat.lt_of_not_le h), val_cons] using ih _ true
      | false => rw [passFrom_cons_lt_unstored ws (Nat.lt_of_not_le h)]; exact ih _ false

theorem passFrom_snd_lt {b1 b2 acc : Nat} (stored : Bool) (ws : List Nat) (ha : acc < b2) :
    (passFrom b1 b2 acc stored ws).2 < b2 := by
  induction ws generalizing acc stored with
  | nil => simpa using ha
  | cons w ws ih =>
    by_cases h : b2 ≤ acc * b1 + w
    · rw [passFrom_cons_ge stored ws h]; exact ih true (Nat.mod_lt _ (by omega))
    · cases stored with
      | true => rw [passFrom_cons_lt_stored ws (Nat.lt_of_not_le h)]; exact ih true (Nat.lt_of_not_le h)
      | false => rw [passFrom_cons_lt_unstored ws (Nat.lt_of_not_le h)]; exact ih false (Nat.lt_of_not_le h)

/-- The accumulator stays below `b2`, so that a quotient digit is a digit of base `b1`. -/
theorem passFrom_digits {b1 b2 acc : Nat} (stored : Bool) {ws : List Nat} (ha : acc < b2) (hw : ∀ x ∈ ws, x < b1) :
    ∀ x ∈ (passFrom b1 b2 acc stored ws).1, x < b1 := by
  induction ws generalizing acc stored with
  | nil => simp
  | cons w ws ih =>
    have hw1 : w < b1 := hw w (by simp)
    have hws : ∀ x ∈ ws, x < b1 := fun x hx => hw x (by simp [hx])
    by_cases h : b2 ≤ acc * b1 + w
    · rw [passFrom_cons_ge stored ws h]
      have hq : (acc * b1 + w) / b2 < b1 := Nat.div_lt_of_lt_mul (by nlinarith)
      exact List.forall_mem_cons.mpr ⟨hq, ih true (Nat.mod_lt _ (by omega)) hws⟩
    · have hacc := Nat.lt_of_not_le h
      cases stored with
      | true =>
        rw [passFrom_cons_lt_stored ws hacc]
        exact List.forall_mem_cons.mpr ⟨by omega, ih true hacc hws⟩
      | false => rw [passFrom_cons_lt_unstored ws hacc]; exact ih false hacc hws

/-- The first quotient digit stored is not zero. -/
theorem passFrom_head_ne_zero {b1 b2 : Nat} (acc : Nat) (ws : List Nat) (hb : 1 ≤ b2) :
    (passFrom b1 b2 acc false ws).1.head? ≠ some 0 := by
  induction ws generalizing acc with
  | nil => simp
  | cons w ws ih =>
    by_cases h : b2 ≤ acc * b1 + w
    · rw [passFrom_cons_ge false ws h]
      have hq : 0 < (acc * b1 + w) / b2 := Nat.div_pos h hb
      simp only [List.head?_cons, ne_eq, Option.some.injEq]
      omega
    · rw [passFrom_cons_lt_unstored ws (Nat.lt_of_not_le h)]; exact ih _

section DivPass
variable {b1 b2 : Nat} {w : List Nat}

/-- The remainder and the quotient of a pass (R153). -/
theorem divPass_mod_div (hb : 1 ≤ b2) : (divPass b1 b2 w).2 = val b1 w % b2 ∧ val b1 (divPass b1 b2 w).1 = val b1 w / b2 := by
  have hval : val b1 w = val b1 (divPass b1 b2 w).1 * b2 + (divPass b1 b2 w).2 := by
    simpa [divPass] using passFrom_val b1 b2 0 false w
  have hlt : (divPass b1 b2 w).2 < b2 := passFrom_snd_lt false w hb
  obtain ⟨hdiv, hmod⟩ := (Nat.div_mod_unique (a := val b1 w) (d := val b1 (divPass b1 b2 w).1) hb).mpr ⟨by rw [hval]; ring, hlt⟩
  exact ⟨hmod.symm, hdiv.symm⟩

theorem divPass_digits (hb : 1 ≤ b2) (hw : ∀ x ∈ w, x < b1) : ∀ x ∈ (divPass b1 b2 w).1, x < b1 :=
  passFrom_digits false hb hw

theorem divPass_head_ne_zero (hb : 1 ≤ b2) : (divPass b1 b2 w).1.head? ≠ some 0 := passFrom_head_ne_zero 0 w hb

/-- A quotient without leading zeros is empty exactly when it is zero (R153, conflict C9). -/
theorem divPass_eq_nil_iff (hb : 1 ≤ b2) (hw : ∀ x ∈ w, x < b1) : (divPass b1 b2 w).1 = [] ↔ val b1 w < b2 := by
  obtain ⟨-, hq⟩ := divPass_mod_div (b1 := b1) (w := w) hb
  rw [← Nat.div_eq_zero_iff_lt hb, ← hq]
  have hh := divPass_head_ne_zero (b1 := b1) (w := w) hb
  have hd := divPass_digits hb hw
  cases h : (divPass b1 b2 w).1 with
  | nil => simp
  | cons x xs =>
    rw [h] at hh hd
    have hb1 : 0 < b1 := Nat.zero_lt_of_lt (hd x (by simp))
    have hpos : b1 ^ xs.length ≤ val b1 (x :: xs) := le_val_cons (by simpa using hh)
    have := Nat.pow_pos (n := xs.length) hb1
    simp only [reduceCtorEq, false_iff]
    omega

end DivPass

/-! ## The loop of passes (R151, R155, R156) -/

/-- With enough passes the loop emits the value in base `b2`, least significant digit first, in canonical form. -/
theorem passLoop_spec {b1 b2 : Nat} (hb : 2 ≤ b2) (fuel : Nat) {w : List Nat} (hw : ∀ x ∈ w, x < b1)
    (hv : val b1 w < b2 ^ (fuel + 1)) :
    val b2 (passLoop b1 b2 (fuel + 1) w).reverse = val b1 w ∧ Canonical b2 (passLoop b1 b2 (fuel + 1) w).reverse := by
  have hb1 : 1 ≤ b2 := by omega
  induction fuel generalizing w with
  | zero =>
    have hlt : val b1 w < b2 := by simpa using hv
    have hnil := (divPass_eq_nil_iff hb1 hw).mpr hlt
    obtain ⟨hr, -⟩ := divPass_mod_div (b1 := b1) (w := w) hb1
    rw [Nat.mod_eq_of_lt hlt] at hr
    rw [passLoop_succ, if_pos hnil, hr]
    exact ⟨by simp, canonical_singleton hlt⟩
  | succ fuel ih =>
    obtain ⟨hr, hq⟩ := divPass_mod_div (b1 := b1) (w := w) hb1
    by_cases hlt : val b1 w < b2
    · have hnil := (divPass_eq_nil_iff hb1 hw).mpr hlt
      rw [Nat.mod_eq_of_lt hlt] at hr
      rw [passLoop_succ, if_pos hnil, hr]
      exact ⟨by simp, canonical_singleton hlt⟩
    · have hnil : (divPass b1 b2 w).1 ≠ [] := fun h => hlt ((divPass_eq_nil_iff hb1 hw).mp h)
      have hqlt : val b1 (divPass b1 b2 w).1 < b2 ^ (fuel + 1) := by
        rw [hq]; exact Nat.div_lt_of_lt_mul (by rwa [pow_succ'] at hv)
      obtain ⟨ihv, ihc⟩ := ih (divPass_digits hb1 hw) hqlt
      rw [passLoop_succ, if_neg hnil, List.reverse_cons, hr]
      constructor
      · rw [val_append, ihv, hq]
        simpa using Nat.div_add_mod' (val b1 w) b2
      · refine ihc.concat ?_ (Nat.mod_lt _ hb1)
        rw [ihv, hq]
        exact (Nat.div_pos (Nat.le_of_not_lt hlt) hb1).ne'

/-- The bound on the passes is never met (R156; log 11). -/
theorem val_lt_pow_passBound {b1 b2 : Nat} (hb : 2 ≤ b2) {d : List Nat} (hd : ∀ x ∈ d, x < b1) :
    val b1 d < b2 ^ (passBound b1 d) :=
  calc val b1 d < b1 ^ d.length := val_lt hd
    _ ≤ (2 ^ b1) ^ d.length := Nat.pow_le_pow_left Nat.lt_two_pow_self.le _
    _ = 2 ^ (b1 * d.length) := (pow_mul 2 b1 d.length).symm
    _ ≤ 2 ^ passBound b1 d := Nat.pow_le_pow_right (by omega) (Nat.le_succ _)
    _ ≤ b2 ^ passBound b1 d := Nat.pow_le_pow_left hb _

/-- The conversion keeps the value and leaves the canonical form (R155). -/
theorem emitted_spec {b1 b2 : Nat} (hb : 2 ≤ b2) {d : List Nat} (hd : ∀ x ∈ d, x < b1) :
    val b2 (emitted b1 b2 d).reverse = val b1 d ∧ Canonical b2 (emitted b1 b2 d).reverse :=
  passLoop_spec hb (b1 * d.length) hd (val_lt_pow_passBound hb hd)

end Sys2Proof.Machine

/-! ## The decimal digits of `ID` (R131) -/

namespace Sys2Proof.Machine

/-- The powers of ten that a number reaches are those up to its logarithm. -/
theorem countP_pow_le {n : Nat} (hn : n ≠ 0) (m : Nat) :
    (List.range m).countP (fun i => 10 ^ i ≤ n) = min m (Nat.log 10 n + 1) := by
  induction m with
  | zero => simp
  | succ m ih =>
    rw [List.range_succ, List.countP_append, ih, List.countP_singleton]
    simp only [decide_eq_true_eq, ← Nat.le_log_iff_pow_le (by omega : 1 < 10) hn]
    split <;> omega

theorem decLength_eq {n : Nat} (hn : n ≠ 0) (hlt : n < 10 ^ 20) : decLength n = Nat.log 10 n + 1 := by
  have hlog : Nat.log 10 n < 20 := Nat.log_lt_of_lt_pow hn hlt
  rw [decLength, countP_pow_le hn]
  omega

/-- A number has no more digits than `decLength` counts. -/
theorem lt_pow_decLength {n : Nat} (hlt : n < 10 ^ 20) : n < 10 ^ decLength n := by
  rcases eq_or_ne n 0 with rfl | hn
  · exact Nat.pow_pos (by omega)
  · rw [decLength_eq hn hlt]; exact Nat.lt_pow_succ_log_self (by omega) n

/-- It has no fewer either. -/
theorem pow_decLength_le {n : Nat} (hn : n ≠ 0) (hlt : n < 10 ^ 20) : 10 ^ (decLength n - 1) ≤ n := by
  rw [decLength_eq hn hlt]; exact Nat.pow_log_le_self 10 hn

/-- The low digits of a number by division, most significant first, have its value modulo their weight. -/
theorem val_div_mod_digits (b n len : Nat) :
    val b ((List.range len).map fun i => n / b ^ (len - 1 - i) % b) = n % b ^ len := by
  induction len generalizing n with
  | zero => simp [Nat.mod_one]
  | succ len ih =>
    have hhigh : (List.range len).map (fun i => n / b ^ (len + 1 - 1 - i) % b) =
        (List.range len).map fun i => n / b / b ^ (len - 1 - i) % b := by
      refine List.map_congr_left fun i hi => ?_
      have hi : i < len := List.mem_range.mp hi
      rw [Nat.div_div_eq_div_mul, ← pow_succ', show len + 1 - 1 - i = len - 1 - i + 1 by omega]
    rw [List.range_succ, List.map_append, val_append, hhigh, ih, pow_succ', Nat.mod_mul]
    simp
    ring

theorem val_sigDigits {n : Nat} (hlt : n < 10 ^ 20) : val 10 (sigDigits n) = n := by
  rw [sigDigits, val_div_mod_digits, Nat.mod_eq_of_lt (lt_pow_decLength hlt)]

/-- The digits of `DDD` have no leading zero (R131). -/
theorem sigDigits_canonical {n : Nat} (hlt : n < 10 ^ 20) : Canonical 10 (sigDigits n) where
  digits x hx := by
    obtain ⟨i, -, rfl⟩ := List.mem_map.mp hx
    exact Nat.mod_lt _ (by omega)
  ne_nil := List.ne_nil_of_length_pos (by rw [sigDigits_length]; exact one_le_decLength n)
  leading := by
    rw [sigDigits_length, sigDigits]
    obtain ⟨k, hk⟩ : ∃ k, decLength n = k + 1 := ⟨decLength n - 1, by have := one_le_decLength n; omega⟩
    rcases eq_or_ne n 0 with rfl | hn
    · exact .inl (by decide)
    · right
      have hpow := pow_decLength_le hn hlt
      have hlt' := lt_pow_decLength hlt
      rw [hk] at hpow hlt'
      have hfirst : 0 < n / 10 ^ k := Nat.div_pos hpow (Nat.pow_pos (by omega))
      have hsmall : n / 10 ^ k < 10 := Nat.div_lt_of_lt_mul (by rwa [pow_succ] at hlt')
      rw [hk, List.range_succ_eq_map]
      simp only [List.map_cons, List.head?_cons, Nat.add_sub_cancel, Nat.sub_zero, ne_eq, Option.some.injEq]
      rw [Nat.mod_eq_of_lt hsmall]
      omega

/-! ## `DEC` and `DLEN` (R22 to R24) -/

/-- The claims' digits are the digits of a sequence put into the cells (R22). -/
theorem decimal_of_cells {s : State} {d : List Nat} (hd : ∀ x ∈ d, x < 10) (hlen : d.length ≤ 20) (hdec : s.dec = decCells d)
    (hdlen : s.dlen = BitVec.ofNat 5 d.length) : s.decimal = d := by
  have hn : s.dlen.toNat = d.length := by rw [hdlen, BitVec.toNat_ofNat]; omega
  refine List.ext_getElem (by simp [State.decimal, hn, hlen]) fun i h1 h2 => ?_
  have hx : d[i] < 10 := hd _ (List.getElem_mem h2)
  simp only [State.decimal, hdec, List.getElem_map, List.getElem_take, Vector.getElem_toList, decCells_getElem,
    List.getD_eq_getElem _ _ h2, BitVec.toNat_ofNat]
  omega

/-- A canonical decimal sequence below 2^65 in the cells satisfies R24, with its value. -/
theorem decimalForm_of_cells {s : State} {d : List Nat} (hd : Canonical 10 d) (hlen : d.length ≤ 20) (hv : val 10 d < 2 ^ 65)
    (hdec : s.dec = decCells d) (hdlen : s.dlen = BitVec.ofNat 5 d.length) : s.DecimalForm ∧ s.decValue = val 10 d := by
  have hn : s.dlen.toNat = d.length := by rw [hdlen, BitVec.toNat_ofNat]; omega
  have hval : s.decValue = val 10 d := by rw [State.decValue, decimal_of_cells hd.digits hlen hdec hdlen]
  have hcell (i : Fin 20) : (s.dec[i]).toNat = d.getD i.val 0 := by
    have hx := hd.getD_lt i.val
    simp only [hdec, Fin.getElem_fin, decCells_getElem, BitVec.toNat_ofNat]
    omega
  refine ⟨⟨⟨by rw [hn]; exact hd.length_pos, by omega⟩, fun i => ?_, fun i hi => ?_, ?_, by rwa [hval]⟩, hval⟩
  · rw [hcell]; exact Nat.le_of_lt_succ (hd.getD_lt i.val)
  · refine BitVec.eq_of_toNat_eq ?_
    rw [hcell, List.getD_eq_default _ _ (by omega)]; rfl
  · rw [hn]
    refine hd.leading.imp_right fun hh h0 => hh ?_
    have h0' : d.getD 0 0 = 0 := (hcell 0).symm.trans (congrArg BitVec.toNat h0)
    cases d with
    | nil => exact absurd rfl hd.ne_nil
    | cons x xs => simpa using h0'

/-- R24 speaks of `DEC` and `DLEN` alone. -/
theorem State.DecimalForm.congr {s t : State} (h : s.DecimalForm) (hdec : t.dec = s.dec) (hdlen : t.dlen = s.dlen) :
    t.DecimalForm where
  length := hdlen ▸ h.length
  digits := hdec ▸ h.digits
  padding := hdlen ▸ hdec ▸ h.padding
  leading := hdlen ▸ hdec ▸ h.leading
  bound := by
    have hv : t.decValue = s.decValue := by rw [State.decValue, State.decimal, hdec, hdlen]; rfl
    rw [hv]; exact h.bound

/-! ## The data symbols (R25, R26) -/

theorem dataDigits_lt (s : State) : ∀ x ∈ dataDigits s, x < 32 := by
  intro x hx
  obtain ⟨c, -, rfl⟩ := List.mem_map.mp hx
  exact c.isLt

theorem dataDigits_length (s : State) : (dataDigits s).length = 13 := by simp [dataDigits, dataSymbols]

/-- A sequence least significant first has the sum of its weighted digits as its value. -/
theorem val_reverse (b : Nat) (d : List Nat) : val b d.reverse = (d.mapIdx fun k x => x * b ^ k).sum := by
  induction d using List.reverseRecOn with
  | nil => rfl
  | append_singleton xs x ih =>
    rw [List.reverse_append, List.reverse_singleton, List.singleton_append, val_cons, ih, List.length_reverse, List.mapIdx_concat,
      List.sum_append]
    simp [Nat.add_comm]

/-- The value a conversion reads is the value claims speak of (R26). -/
theorem val_dataDigits (s : State) : val 32 (dataDigits s) = symbolsValue s.cw := by
  rw [dataDigits, List.map_reverse, val_reverse, symbolsValue]
  congr 1
  refine List.ext_getElem (by simp [dataSymbols]) fun k h1 h2 => ?_
  simp [dataSymbols]

theorem symbolsValue_lt (s : State) : symbolsValue s.cw < 2 ^ 65 := by
  have h := val_lt (dataDigits_lt s)
  rwa [dataDigits_length, val_dataDigits] at h

/-! ## The syndromes (R211) -/

/-- The double loop's positions, the skipped ones gone, are the positions of the 17 symbols. -/
theorem filter_positions :
    (List.range 31).filter (fun j => !decide (13 ≤ j ∧ j ≤ 26)) = (List.finRange 17).map fun k => positionOf k.val := by decide

theorem loopSyndrome_eq (cw : Vector Symbol 17) (i : Nat) : loopSyndrome cw i = syndrome cw i := by
  have hskip : loopSyndrome cw i = ((List.range 31).filter fun j => !decide (13 ≤ j ∧ j ≤ 26)).foldl
      (fun t j => t ^^^ gmul (cw.toList.getD (if 26 < j then j - 14 else j) 0) (expTable.toList.getD ((i * j) % 31) 0)) 0 := by
    rw [List.foldl_filter, loopSyndrome]
    congr 1
    funext t j
    by_cases h : 13 ≤ j ∧ j ≤ 26 <;> simp [h]
  rw [hskip, filter_positions, List.foldl_map, syndrome]
  congr 1
  funext t k
  have hpos : (if 26 < positionOf k.val then positionOf k.val - 14 else positionOf k.val) = k.val := by
    simp only [positionOf]; split <;> split <;> omega
  have hlt : i * positionOf k.val % 31 < 32 := by omega
  simp [hpos, weight, expAt, hlt]

theorem loopSyndromes_eq (cw : Vector Symbol 17) : loopSyndromes cw = syndromes cw := by
  simp only [loopSyndromes, syndromes, loopSyndrome_eq]

/-- The or of the four syndromes tests that each is zero (R211). -/
theorem syndromesZero_iff_eq_zero (S : Vector Symbol 4) : syndromesZero S = true ↔ S = Vector.replicate 4 0 := by
  rw [syndromesZero_iff]
  constructor
  · rintro ⟨h0, h1, h2, h3⟩
    ext k hk
    obtain rfl | rfl | rfl | rfl : k = 0 ∨ k = 1 ∨ k = 2 ∨ k = 3 := by omega
    all_goals simp [h0, h1, h2, h3]
  · rintro rfl; decide

/-- The machine's test is the validity that claims speak of. -/
theorem validCodeword_iff (cw : Vector Symbol 17) : ValidCodeword cw ↔ syndromesZero (syndromes cw) = true := by
  rw [ValidCodeword, loopSyndromes_eq, syndromesZero_iff_eq_zero]

end Sys2Proof.Machine

/-! ## What the units leave -/

namespace Sys2Proof.Machine

/-- `DDD` leaves the canonical decimal form of `ID` (R130, R131). -/
theorem unitDdd_spec (s : State) : ∃ dec dlen, unitDdd s = .done { s with dec := dec, dlen := dlen } ∧
    State.DecimalForm { s with dec := dec, dlen := dlen } ∧ State.decValue { s with dec := dec, dlen := dlen } = s.id.toNat := by
  have hid : s.id.toNat < 2 ^ 64 := s.id.isLt
  have hlt : s.id.toNat < 10 ^ 20 := by omega
  have hval := val_sigDigits hlt
  refine ⟨_, _, unitDdd_eq s, ?_⟩
  rw [← hval]
  exact decimalForm_of_cells (sigDigits_canonical hlt) (by rw [sigDigits_length]; exact decLength_le _) (by omega) (by rw [hval])
    (by rw [hval, sigDigits_length])

/-- `R32T10` leaves the canonical decimal form of the data symbols' value (R165 to R167). -/
theorem unitR32t10_spec (s : State) : ∃ dec dlen,
    unitR32t10 s = .done { s with dec := dec, dlen := dlen, passes := dlen } ∧
    State.DecimalForm { s with dec := dec, dlen := dlen, passes := dlen } ∧
    State.decValue { s with dec := dec, dlen := dlen, passes := dlen } = symbolsValue s.cw := by
  obtain ⟨hval, hcanon⟩ := emitted_spec (b2 := 10) (by omega) (dataDigits_lt s)
  rw [val_dataDigits] at hval
  have hlt := symbolsValue_lt s
  have hlen := hcanon.length_le (n := 20) (by omega) (by omega) (by omega)
  refine ⟨_, _, unitR32t10_eq s, ?_⟩
  rw [← hval]
  exact decimalForm_of_cells hcanon hlen (by omega) rfl (by simp)

/-- Everything the step of `R10T32` can be (R160, log 5, log 6). -/
theorem unitR10t32_cases (s : State) :
    (∃ f, unitR10t32 s = .stopFault f) ∨ (∃ r, unitR10t32 s = .stopRefused r) ∨
    ∃ cw passes, passes.toNat ≤ 13 ∧ unitR10t32 s = .done { s with cw := cw, passes := passes } := by
  rcases Nat.lt_or_ge 20 s.dlen.toNat with h | h
  · exact .inl ⟨_, unitR10t32_of_gt h⟩
  · rw [unitR10t32_of_le h]
    rcases storeSymbols_cases ((s.dec.toList.take s.dlen.toNat).map BitVec.toNat) s with ⟨hlen, he⟩ | ⟨-, he⟩
    · exact .inr (.inr ⟨_, _, by rw [BitVec.toNat_ofNat]; exact (Nat.mod_le _ _).trans hlen, he⟩)
    · exact .inr (.inl ⟨_, he⟩)

/-- Everything the step of `DACC` can be (R135, R295, log 6). -/
theorem unitDacc_cases (s : State) :
    unitDacc s = .stopFault .lengthOutOfRange ∨ unitDacc s = .raised .idOverflow s ∨
    ∃ id, id.toNat = s.decValue ∧ unitDacc s = .done { s with id := id } := by
  rcases Nat.lt_or_ge 20 s.dlen.toNat with h | h
  · exact .inl (unitDacc_of_gt h)
  · rw [unitDacc_of_le h]
    rcases storeId_cases s.decValue s with ⟨-, he⟩ | ⟨hlt, he⟩
    · exact .inr (.inl he)
    · exact .inr (.inr ⟨_, by rw [BitVec.toNat_ofNat]; exact Nat.mod_eq_of_lt hlt, he⟩)

/-- Everything the step of `PARSE` can be (R240, R246, log 6): done with a valid codeword, or raised with `VALID` clear. -/
theorem unitParse_cases (s : State) :
    unitParse s = .stopFault .lengthOutOfRange ∨
    (∃ cw, ValidCodeword cw ∧
      unitParse s = .done { s with cw := cw, clen := 17, syn := Vector.replicate 4 0, valid := true }) ∨
    ∃ o cw clen syn, (o = .codewordTooLong ∨ o = .codewordInvalid) ∧ clen.toNat ≤ 17 ∧
      unitParse s = .raised o { s with cw := cw, clen := clen, syn := syn, valid := false } := by
  rcases Nat.lt_or_ge Config.tinCap s.tinlen.toNat with h | h
  · exact .inl (unitParse_of_gt h)
  · rw [unitParse_of_le h]
    rcases parseBytes_cases (s.tin.toList.take s.tinlen.toNat) s with ⟨-, he⟩ | ⟨hlen, he⟩ | ⟨-, hz, he⟩ | ⟨-, -, he⟩
    · exact .inr (.inr ⟨_, _, _, _, .inl rfl, by decide, he⟩)
    · exact .inr (.inr ⟨_, _, _, _, .inr rfl, by rw [BitVec.toNat_ofNat]; exact (Nat.mod_le _ _).trans hlen.le, he⟩)
    · rw [(syndromesZero_iff_eq_zero _).mp hz] at he
      exact .inr (.inl ⟨_, (validCodeword_iff _).mpr hz, he⟩)
    · exact .inr (.inr ⟨_, _, _, _, .inr rfl, by decide, he⟩)

/-! ## What the commands leave -/

/-- Everything `DACC` can leave (R135, R295). -/
theorem execDacc_cases {s t : State} (h : exec .dacc s = .next t) :
    t = endWith .idOverflow s ∨ ∃ id, id.toNat = s.decValue ∧ t = endWith .ok { s with id := id } := by
  have h : (unitDacc s).finish = .next t := h
  rcases unitDacc_cases s with he | he | ⟨id, hid, he⟩ <;> rw [he] at h
  · cases h
  · exact .inl (by simpa using h.symm)
  · exact .inr ⟨id, hid, by simpa using h.symm⟩

/-- Everything `PARSE` can leave (R246). -/
theorem execParse_cases {s t : State} (h : exec .parse s = .next t) :
    (∃ cw, t = endWith .ok { s with cw := cw, clen := 17, syn := Vector.replicate 4 0, valid := true }) ∨
    ∃ o cw clen syn, (o = .codewordTooLong ∨ o = .codewordInvalid) ∧
      t = endWith o { s with cw := cw, clen := clen, syn := syn, valid := false } := by
  have h : (unitParse s).finish = .next t := h
  rcases unitParse_cases s with he | ⟨cw, -, he⟩ | ⟨o, cw, clen, syn, ho, -, he⟩ <;> rw [he] at h
  · cases h
  · exact .inl ⟨cw, by simpa using h.symm⟩
  · exact .inr ⟨o, cw, clen, syn, ho, by simpa using h.symm⟩

/-- Everything `DECODE` can leave (R264): the end of a `PARSE` that raised, or a valid codeword, its value in `DEC`, and the end of
`DACC`. -/
theorem execDecode_cases {s t : State} (h : exec .decode s = .next t) :
    (∃ o cw clen syn, (o = .codewordTooLong ∨ o = .codewordInvalid) ∧
      t = endWith o { s with cw := cw, clen := clen, syn := syn, valid := false }) ∨
    ∃ cw u, ValidCodeword cw ∧ u.cw = cw ∧ u.id = s.id ∧ u.valid = true ∧
      (t = endWith .idOverflow u ∨ ∃ id, id.toNat = symbolsValue cw ∧ t = endWith .ok { u with id := id }) := by
  have h : (((unitParse s).andThen unitR32t10).andThen unitDacc).finish = .next t := h
  rcases unitParse_cases s with he | ⟨cw, hcw, he⟩ | ⟨o, cw, clen, syn, ho, -, he⟩ <;> rw [he] at h
  · cases h
  · obtain ⟨u, hconv, hucw, huid, huvalid, hval⟩ : ∃ u, unitR32t10 { s with
        cw := cw, clen := 17, syn := Vector.replicate 4 0, valid := true } = .done u ∧
        u.cw = cw ∧ u.id = s.id ∧ u.valid = true ∧ u.decValue = symbolsValue cw := by
      obtain ⟨dec, dlen, hconv, -, hval⟩ := unitR32t10_spec _
      exact ⟨_, hconv, rfl, rfl, rfl, hval⟩
    rw [andThen_done, hconv, andThen_done] at h
    have hend := execDacc_cases h
    rw [hval] at hend
    exact .inr ⟨cw, u, hcw, hucw, huid, huvalid, hend⟩
  · exact .inl ⟨o, cw, clen, syn, ho, by simpa using h.symm⟩

/-- Everything `ENCODE` can leave (R262): the buffers that its four steps write, and `OK`. -/
theorem execEncode_eq_next {s t : State} (h : exec .encode s = .next t) :
    ∃ dec dlen cw passes p tout, t = endWith .ok { s with
      dec := dec, dlen := dlen, cw := cw, passes := passes, p := p, tout := tout, toutlen := 26 } := by
  have h : ((((unitDdd s).andThen unitR10t32).andThen unitRsenc).andThen unitFmt).finish = .next t := h
  obtain ⟨dec, dlen, hddd, -⟩ := unitDdd_spec s
  rw [hddd, andThen_done] at h
  rcases unitR10t32_cases { s with dec := dec, dlen := dlen } with ⟨f, he⟩ | ⟨r, he⟩ | ⟨cw, passes, -, he⟩ <;> rw [he] at h
  · cases h
  · cases h
  · rw [andThen_done, unitRsenc_eq, andThen_done, unitFmt_eq, finish_done] at h
    exact ⟨_, _, _, _, _, _, (Host.Outcome.next.inj h).symm⟩

/-- A step that is done and keeps the flag and `ID` makes a command that ends `OK` and keeps them. -/
theorem ok_and_frame_of_done {e : Ending} {a s t : State} (he : e = .done a) (h : e.finish = .next t) (hvalid : a.valid = s.valid)
    (hid : a.id = s.id) : t.code = 0 ∧ t.valid = s.valid ∧ t.id = s.id := by
  rw [he, finish_done] at h
  obtain rfl := Host.Outcome.next.inj h
  exact ⟨rfl, hvalid, hid⟩

/-- The commands that have no other outcome than `OK` and touch neither the flag nor `ID` (R44, R21). -/
theorem exec_ok_and_frame {i : Instr} {s t : State} (h : exec i s = .next t) (hdacc : i ≠ .dacc) (hrschk : i ≠ .rschk)
    (hparse : i ≠ .parse) (hdecode : i ≠ .decode) (hclr : i ≠ .clr) : t.code = 0 ∧ t.valid = s.valid ∧ t.id = s.id := by
  cases i with
  | nop => exact ok_and_frame_of_done (e := .done s) rfl h rfl rfl
  | ddd => exact ok_and_frame_of_done (unitDdd_eq s) h rfl rfl
  | r10t32 =>
    rcases unitR10t32_cases s with ⟨f, he⟩ | ⟨r, he⟩ | ⟨cw, passes, -, he⟩
    · exact absurd h (by rw [exec, execR10t32, he]; nofun)
    · exact absurd h (by rw [exec, execR10t32, he]; nofun)
    · exact ok_and_frame_of_done he h rfl rfl
  | r32t10 => exact ok_and_frame_of_done (unitR32t10_eq s) h rfl rfl
  | gfmul a b => exact ok_and_frame_of_done (e := .done { s with gp := gmul a b }) rfl h rfl rfl
  | rsenc => exact ok_and_frame_of_done (unitRsenc_eq s) h rfl rfl
  | fmt => exact ok_and_frame_of_done (unitFmt_eq s) h rfl rfl
  | encode =>
    obtain ⟨_, _, _, _, _, _, rfl⟩ := execEncode_eq_next h
    exact ⟨rfl, rfl, rfl⟩
  | dacc => exact absurd rfl hdacc
  | rschk => exact absurd rfl hrschk
  | parse => exact absurd rfl hparse
  | decode => exact absurd rfl hdecode
  | clr => exact absurd rfl hclr

/-- `RSCHK` ends `OK` whatever the codeword (R212). -/
theorem execRschk_eq (s : State) : exec .rschk s = .next (endWith .ok (recordValidation (syndromes s.cw) s)) := rfl

/-- `CLR` ends `OK` (R267). -/
theorem execClr_eq (s : State) : exec .clr s = .next (endWith .ok (resetBlock s)) := rfl

/-- A command that changes `ID` is `CLR`, or a `DACC` or `DECODE` that ends `OK` (R21). -/
theorem eq_clr_or_ok_of_id_ne {i : Instr} {s t : State} (h : exec i s = .next t) (hid : t.id ≠ s.id) :
    i = .clr ∨ ((i = .dacc ∨ i = .decode) ∧ t.code = 0) := by
  cases i with
  | nop | ddd | r10t32 | r32t10 | gfmul | rsenc | fmt | encode =>
    obtain ⟨-, -, hsame⟩ := exec_ok_and_frame h nofun nofun nofun nofun nofun
    exact absurd hsame hid
  | rschk => cases (execRschk_eq s).symm.trans h; exact absurd rfl hid
  | clr => exact .inl rfl
  | dacc =>
    rcases execDacc_cases h with rfl | ⟨id, -, rfl⟩
    · exact absurd rfl hid
    · exact .inr ⟨.inl rfl, rfl⟩
  | parse => rcases execParse_cases h with ⟨cw, rfl⟩ | ⟨o, cw, clen, syn, -, rfl⟩ <;> exact absurd rfl hid
  | decode =>
    rcases execDecode_cases h with ⟨o, cw, clen, syn, -, rfl⟩ | ⟨cw, u, -, -, hsame, -, rfl | ⟨id, -, rfl⟩⟩
    · exact absurd rfl hid
    · exact absurd hsame hid
    · exact .inr ⟨.inr rfl, rfl⟩

/-- A `DECODE` that ends `OK` has read a valid codeword and left its value in `ID` (R218, R264). -/
theorem execDecode_ok {s t : State} (h : exec .decode s = .next t) (hcode : t.code = 0) :
    ValidCodeword t.cw ∧ t.id.toNat = symbolsValue t.cw := by
  rcases execDecode_cases h with ⟨o, cw, clen, syn, rfl | rfl, rfl⟩ | ⟨cw, u, hvalid, rfl, -, -, rfl | ⟨id, hid, rfl⟩⟩
  · exact absurd hcode (by decide : CmdOutcome.codewordTooLong.code ≠ 0)
  · exact absurd hcode (by decide : CmdOutcome.codewordInvalid.code ≠ 0)
  · exact absurd hcode (by decide : CmdOutcome.idOverflow.code ≠ 0)
  · exact ⟨hvalid, hid⟩

end Sys2Proof.Machine

/-! ## Invariants: a property that every operation keeps is kept by every step -/

namespace Sys2Proof.Machine

/-- The states in which a unit's step can end, done or raised, all have a property. -/
def Ending.All (P : State → Prop) : Ending → Prop
  | .done s => P s
  | .raised _ s => P s
  | .stopFault _ => True
  | .stopRefused _ => True

theorem Ending.All.andThen {P : State → Prop} {e : Ending} {f : State → Ending} (he : e.All P) (hf : ∀ s, P s → (f s).All P) :
    (e.andThen f).All P := by
  cases e with
  | done s => exact hf s he
  | raised o s => exact he
  | stopFault r => trivial
  | stopRefused r => trivial

theorem Ending.All.finish {P : State → Prop} {e : Ending} {t : State} (he : e.All P) (hend : ∀ o s, P s → P (endWith o s))
    (h : e.finish = .next t) : P t := by
  rcases finish_eq_next h with ⟨s, rfl, rfl⟩ | ⟨o, s, rfl, rfl⟩
  · exact hend .ok s he
  · exact hend o s he

/-- A property kept by each operation of the block: the units' steps, the end of a command, a reset, an accepted host write, and the
model's fields for the host. -/
structure KeptByOps (P : State → Prop) : Prop where
  host : ∀ s pending response, P s → P { s with pending := pending, response := response }
  write : ∀ c d s t, writeCell c d s = some t → P s → P t
  reset : ∀ s, P (resetBlock s)
  endWith : ∀ o s, P s → P (endWith o s)
  gp : ∀ s x, P s → P { s with gp := x }
  validation : ∀ s, P s → P (recordValidation (syndromes s.cw) s)
  ddd : ∀ s, P s → (unitDdd s).All P
  r10t32 : ∀ s, P s → (unitR10t32 s).All P
  r32t10 : ∀ s, P s → (unitR32t10 s).All P
  dacc : ∀ s, P s → (unitDacc s).All P
  rsenc : ∀ s, P s → (unitRsenc s).All P
  fmt : ∀ s, P s → (unitFmt s).All P
  parse : ∀ s, P s → (unitParse s).All P

namespace KeptByOps
variable {P : State → Prop} (K : KeptByOps P) {s t : State}
include K

theorem exec_next {i : Instr} (hs : P s) (h : exec i s = .next t) : P t := by
  cases i with
  | nop => exact Ending.All.finish (e := .done s) hs K.endWith h
  | ddd => exact (K.ddd s hs).finish K.endWith h
  | r10t32 => exact (K.r10t32 s hs).finish K.endWith h
  | r32t10 => exact (K.r32t10 s hs).finish K.endWith h
  | dacc => exact (K.dacc s hs).finish K.endWith h
  | gfmul a b => exact Ending.All.finish (e := .done { s with gp := gmul a b }) (K.gp s _ hs) K.endWith h
  | rsenc => exact (K.rsenc s hs).finish K.endWith h
  | rschk => exact Ending.All.finish (e := .done _) (K.validation s hs) K.endWith h
  | fmt => exact (K.fmt s hs).finish K.endWith h
  | parse => exact (K.parse s hs).finish K.endWith h
  | encode => exact ((((K.ddd s hs).andThen K.r10t32).andThen K.rsenc).andThen K.fmt).finish K.endWith h
  | decode => exact (((K.parse s hs).andThen K.r32t10).andThen K.dacc).finish K.endWith h
  | clr => exact Ending.All.finish (e := .done _) (K.reset s) K.endWith h

theorem answer_kept (r : Response) (hs : P s) : P (answer r s) := K.host s s.pending (some r) hs

theorem doEvent_next {e : HostEvent} (hs : P s) (h : doEvent e s = .next t) : P t := by
  rcases doEvent_cases h with ⟨a, d, -, -, rfl⟩ | ⟨a, -, -, rfl⟩ | ⟨a, d, c, u, -, -, hw, rfl⟩ | ⟨a, d, -, rfl⟩ |
    ⟨d, i, -, -, -, hi⟩ | ⟨d, y, -, -, -, rfl⟩ | ⟨-, rfl⟩
  case inl => exact K.answer_kept _ hs
  case inr.inl => exact K.answer_kept _ hs
  case inr.inr.inl => exact K.answer_kept _ (K.write c d s u hw hs)
  case inr.inr.inr.inl => exact K.answer_kept _ hs
  case inr.inr.inr.inr.inl => exact K.exec_next (K.answer_kept .ok hs) hi
  case inr.inr.inr.inr.inr.inl => exact K.endWith _ _ (K.answer_kept .ok hs)
  case inr.inr.inr.inr.inr.inr => exact K.host (resetBlock s) s.pending none (K.reset s)

theorem step_next (hs : P s) (h : step s = .next t) : P t := by
  rcases step_cases h with ⟨-, rfl⟩ | ⟨e, rest, -, he⟩
  · exact hs
  · exact K.doEvent_next (K.host s rest s.response hs) he

end KeptByOps

/-! ## The two invariants -/

/-- R20's legal values and R24 look at seven registers alone. -/
theorem State.Inv.congr {s t : State} (h : s.Inv) (hdec : t.dec = s.dec) (hdlen : t.dlen = s.dlen) (hclen : t.clen = s.clen)
    (hpasses : t.passes = s.passes) (htinlen : t.tinlen = s.tinlen) (htoutlen : t.toutlen = s.toutlen) (hcode : t.code = s.code) :
    t.Inv :=
  ⟨⟨hclen ▸ h.ranges.clen, hpasses ▸ h.ranges.passes, htinlen ▸ h.ranges.tinlen, htoutlen ▸ h.ranges.toutlen,
    hcode ▸ h.ranges.code⟩, h.decimal.congr hdec hdlen⟩

theorem reset_inv : State.reset.Inv where
  ranges := ⟨by decide, by decide, by decide, by decide, by decide⟩
  decimal := ⟨by decide, by decide, by decide, by decide, by decide⟩

/-- A host write keeps the invariant: of the registers it looks at only `TINLEN` can be written, within its limit (R69). -/
theorem writeCell_inv {c : Cell} {d : HostData} {s t : State} (h : writeCell c d s = some t) (hs : s.Inv) : t.Inv := by
  rcases writeCell_cases h with ⟨-, rfl⟩ | ⟨i, -, -, rfl⟩ | ⟨i, -, -, rfl⟩ | ⟨-, hd, rfl⟩
  · exact hs.congr rfl rfl rfl rfl rfl rfl rfl
  · exact hs.congr rfl rfl rfl rfl rfl rfl rfl
  · exact hs.congr rfl rfl rfl rfl rfl rfl rfl
  · have htinlen : (d.setWidth 7).toNat ≤ Config.tinCap := by
      rw [BitVec.toNat_setWidth]; exact (Nat.mod_le _ _).trans hd
    exact ⟨⟨hs.ranges.clen, hs.ranges.passes, htinlen, hs.ranges.toutlen, hs.ranges.code⟩, hs.decimal.congr rfl rfl⟩

theorem unitDdd_inv {s : State} (hs : s.Inv) : (unitDdd s).All State.Inv := by
  obtain ⟨dec, dlen, he, hform, -⟩ := unitDdd_spec s
  rw [he]
  exact ⟨⟨hs.ranges.clen, hs.ranges.passes, hs.ranges.tinlen, hs.ranges.toutlen, hs.ranges.code⟩, hform⟩

theorem unitR10t32_inv {s : State} (hs : s.Inv) : (unitR10t32 s).All State.Inv := by
  rcases unitR10t32_cases s with ⟨f, he⟩ | ⟨r, he⟩ | ⟨cw, passes, hp, he⟩ <;> rw [he]
  · trivial
  · trivial
  · exact ⟨⟨hs.ranges.clen, hp.trans (by decide), hs.ranges.tinlen, hs.ranges.toutlen, hs.ranges.code⟩, hs.decimal.congr rfl rfl⟩

/-- `PASSES` is `DLEN` after the conversion to decimal, so 20 bounds it too (R31). -/
theorem unitR32t10_inv {s : State} (hs : s.Inv) : (unitR32t10 s).All State.Inv := by
  obtain ⟨dec, dlen, he, hform, -⟩ := unitR32t10_spec s
  rw [he]
  exact ⟨⟨hs.ranges.clen, hform.length.2, hs.ranges.tinlen, hs.ranges.toutlen, hs.ranges.code⟩, hform⟩

theorem unitDacc_inv {s : State} (hs : s.Inv) : (unitDacc s).All State.Inv := by
  rcases unitDacc_cases s with he | he | ⟨id, -, he⟩ <;> rw [he]
  · trivial
  · exact hs
  · exact hs.congr rfl rfl rfl rfl rfl rfl rfl

theorem unitFmt_inv {s : State} (hs : s.Inv) : (unitFmt s).All State.Inv :=
  ⟨⟨hs.ranges.clen, hs.ranges.passes, hs.ranges.tinlen, .inr rfl, hs.ranges.code⟩, hs.decimal.congr rfl rfl⟩

theorem unitParse_inv {s : State} (hs : s.Inv) : (unitParse s).All State.Inv := by
  rcases unitParse_cases s with he | ⟨cw, -, he⟩ | ⟨o, cw, clen, syn, -, hclen, he⟩ <;> rw [he]
  · trivial
  · exact ⟨⟨Nat.le_refl 17, hs.ranges.passes, hs.ranges.tinlen, hs.ranges.toutlen, hs.ranges.code⟩, hs.decimal.congr rfl rfl⟩
  · exact ⟨⟨hclen, hs.ranges.passes, hs.ranges.tinlen, hs.ranges.toutlen, hs.ranges.code⟩, hs.decimal.congr rfl rfl⟩

/-- Every operation keeps R20's legal values and R24. -/
theorem inv_keptByOps : KeptByOps State.Inv where
  host _ _ _ hs := hs.congr rfl rfl rfl rfl rfl rfl rfl
  write _ _ _ _ := writeCell_inv
  reset _ := reset_inv.congr rfl rfl rfl rfl rfl rfl rfl
  endWith o _ hs :=
    ⟨⟨hs.ranges.clen, hs.ranges.passes, hs.ranges.tinlen, hs.ranges.toutlen, code_le_four o⟩, hs.decimal.congr rfl rfl⟩
  gp _ _ hs := hs.congr rfl rfl rfl rfl rfl rfl rfl
  validation _ hs := hs.congr rfl rfl rfl rfl rfl rfl rfl
  ddd _ := unitDdd_inv
  r10t32 _ := unitR10t32_inv
  r32t10 _ := unitR32t10_inv
  dacc _ := unitDacc_inv
  rsenc _ hs := hs.congr rfl rfl rfl rfl rfl rfl rfl
  fmt _ := unitFmt_inv
  parse _ := unitParse_inv

/-- `VALID` and `SYN` are written together by a validation, and `VALID` is clear where `SYN` is written otherwise (R29, R42). -/
theorem validMeansZero_keptByOps : KeptByOps State.ValidMeansZero where
  host _ _ _ hs := hs
  write c d s t h hs := by
    rcases writeCell_cases h with ⟨-, rfl⟩ | ⟨i, -, -, rfl⟩ | ⟨i, -, -, rfl⟩ | ⟨-, -, rfl⟩ <;> exact hs
  reset _ _ := rfl
  endWith _ _ hs := hs
  gp _ _ hs := hs
  validation _ _ hv := (syndromesZero_iff_eq_zero _).mp hv
  ddd _ hs := hs
  r10t32 s hs := by
    rcases unitR10t32_cases s with ⟨f, he⟩ | ⟨r, he⟩ | ⟨cw, passes, -, he⟩ <;> rw [he]
    · trivial
    · trivial
    · exact hs
  r32t10 _ hs := hs
  dacc s hs := by
    rcases unitDacc_cases s with he | he | ⟨id, -, he⟩ <;> rw [he]
    · trivial
    · exact hs
    · exact hs
  rsenc _ hs := hs
  fmt _ hs := hs
  parse s _ := by
    rcases unitParse_cases s with he | ⟨cw, -, he⟩ | ⟨o, cw, clen, syn, -, -, he⟩ <;> rw [he]
    · trivial
    · exact fun _ => rfl
    · exact nofun

/-- A buffer of `n` equal cells holds that value in each (R50). -/
theorem reset_hasResetValues : State.reset.HasResetValues where
  id := rfl
  dec _ := Vector.getElem_replicate _
  dlen := rfl
  cw _ := Vector.getElem_replicate _
  clen := rfl
  p _ := Vector.getElem_replicate _
  syn _ := Vector.getElem_replicate _
  gp := rfl
  passes := rfl
  tin _ := Vector.getElem_replicate _
  tinlen := rfl
  tout _ := Vector.getElem_replicate _
  toutlen := rfl
  code := rfl
  valid := rfl

/-- The reset values are those of the block's own pieces of state, so the host's fields and the code `OK` do not matter. -/
theorem endWith_ok_resetBlock_hasResetValues (s : State) : (endWith .ok (resetBlock s)).HasResetValues :=
  { reset_hasResetValues with code := rfl }

end Sys2Proof.Machine

/-! ## The statements on the state -/

namespace Sys2Proof.Proofs
open Sys2Proof.Machine

/-- Settles O3: each operation of the block keeps the invariant, and a step is made of them. -/
theorem everyStepKeepsTheInvariant : Obligations.EveryStepKeepsTheInvariant :=
  fun _ _ hs h => inv_keptByOps.step_next hs h

/-- Settles O56, command by command, `PARSE` and `DECODE` by the end of the parse. -/
theorem outcomesAndFlagByCommand : Obligations.OutcomesAndFlagByCommand := by
  intro i s t h
  cases i with
  | nop | ddd | r10t32 | r32t10 | gfmul | rsenc | fmt | encode =>
    obtain ⟨hcode, hvalid, -⟩ := exec_ok_and_frame h nofun nofun nofun nofun nofun
    simp [hcode, hvalid]
  | rschk => cases (execRschk_eq s).symm.trans h; simp [CmdOutcome.code]
  | clr => cases (execClr_eq s).symm.trans h; simp [CmdOutcome.code]
  | dacc => rcases execDacc_cases h with rfl | ⟨id, -, rfl⟩ <;> simp [CmdOutcome.code]
  | parse =>
    rcases execParse_cases h with ⟨cw, rfl⟩ | ⟨o, cw, clen, syn, rfl | rfl, rfl⟩ <;> simp [CmdOutcome.code]
  | decode =>
    rcases execDecode_cases h with ⟨o, cw, clen, syn, rfl | rfl, rfl⟩ | ⟨cw, u, -, -, -, hvalid, rfl | ⟨id, -, rfl⟩⟩
    · simp [CmdOutcome.code]
    · simp [CmdOutcome.code]
    · simp [CmdOutcome.code, hvalid]
    · simp [CmdOutcome.code, hvalid]

/-- Settles O57, by what each command can leave. -/
theorem idIsWrittenOnlyByASuccess : Obligations.IdIsWrittenOnlyByASuccess :=
  ⟨fun _ _ _ => eq_clr_or_ok_of_id_ne, fun _ _ => execDecode_ok⟩

/-- Settles O58: each operation of the block keeps it, and a step is made of them. -/
theorem validFlagMatchesTheSyndromes : Obligations.ValidFlagMatchesTheSyndromes :=
  ⟨fun _ => rfl, fun _ _ hs h => validMeansZero_keptByOps.step_next hs h⟩

/-- Settles O1: `CLR` ends in the reset state but for the model's fields for the host. -/
theorem resetAndClrLeaveTheStatedValues : Obligations.ResetAndClrLeaveTheStatedValues :=
  ⟨reset_hasResetValues, fun s => ⟨_, execClr_eq s, endWith_ok_resetBlock_hasResetValues s⟩⟩

/-- Settles O2: R323. -/
theorem resetSatisfiesTheInvariant : Obligations.ResetSatisfiesTheInvariant := reset_inv

end Sys2Proof.Proofs

/-! ## The address map (R60, R63) -/

namespace Sys2Proof.Machine

theorem indexIn_eq_some {base n a : Nat} {i : Fin n} : indexIn base n a = some i ↔ a = base + i.val := by
  unfold indexIn
  split
  · simp only [Option.some.injEq, Fin.ext_iff]; omega
  · simp only [reduceCtorEq, false_iff]; omega

/-- A cell has one address: the registers' are constants, the arrays' are checked index by index. -/
theorem cellAt_addrOf (c : Cell) : cellAt (addrOf c) = some c := by
  cases c with
  | id | cmd | status | dlen | clen | passes | gp | tinlen | toutlen => rfl
  | dec i | cw i | p i | syn i | tout i | tin i | romExp i | romLog i | romMap i | romAlpha i | romGen i | romPrefix i =>
    revert i; decide

/-- In an array whose cells have the addresses from `base` on, the cell found at `a` has the address `a`. -/
theorem addrOf_toNat_of_indexIn {base n a : Nat} {array : Fin n → Cell} {c : Cell}
    (harray : ∀ i, (addrOf (array i)).toNat = base + i.val) (h : (indexIn base n a).map array = some c) : (addrOf c).toNat = a := by
  obtain ⟨i, hi, rfl⟩ := Option.map_eq_some_iff.mp h
  rw [harray, indexIn_eq_some.mp hi]

theorem addrOf_toNat_of_arrayCellAt {a : Nat} {c : Cell} (h : arrayCellAt a = some c) : (addrOf c).toNat = a := by
  unfold arrayCellAt at h
  split at h
  case h_1 | h_2 | h_4 | h_5 => exact addrOf_toNat_of_indexIn (by decide) h
  case h_3 =>
    rcases (Option.orElse_eq_some ..).mp h with h | ⟨-, h⟩ <;> exact addrOf_toNat_of_indexIn (by decide) h
  case h_6 =>
    simp only [Option.orElse_eq_some] at h
    rcases h with h | ⟨-, h | ⟨-, h | ⟨-, h | ⟨-, h | ⟨-, h⟩⟩⟩⟩⟩ <;> exact addrOf_toNat_of_indexIn (by decide) h
  case h_7 => contradiction

theorem addrOf_of_cellAt {a : HostAddr} {c : Cell} (h : cellAt a = some c) : addrOf c = a := by
  apply BitVec.eq_of_toNat_eq
  unfold cellAt at h
  split at h
  case h_10 => exact addrOf_toNat_of_arrayCellAt h
  all_goals
    rename_i ha
    cases h
    exact ha.symm

theorem cellAt_eq_some_iff {a : HostAddr} {c : Cell} : cellAt a = some c ↔ a = addrOf c :=
  ⟨fun h => (addrOf_of_cellAt h).symm, fun h => h ▸ cellAt_addrOf c⟩

theorem mappedAddr_addrOf (c : Cell) : mappedAddr (addrOf c).toNat = true := by
  cases c with
  | id | cmd | status | dlen | clen | passes | gp | tinlen | toutlen => rfl
  | dec i | cw i | p i | syn i | tout i | tin i | romExp i | romLog i | romMap i | romAlpha i | romGen i | romPrefix i =>
    revert i; decide

theorem cellAt_of_not_mapped {a : HostAddr} (h : mappedAddr a.toNat = false) : cellAt a = none := by
  refine Option.eq_none_iff_forall_ne_some.mpr fun c hc => ?_
  rw [cellAt_eq_some_iff.mp hc, mappedAddr_addrOf] at h
  contradiction

end Sys2Proof.Machine

/-! ## Host reads (R62, R65) -/

namespace Sys2Proof.Machine

theorem hostRead_addrOf (c : Cell) (s : State) : hostRead (addrOf c) s = readCell c s := by
  simp only [hostRead, cellAt_addrOf]

theorem hostRead_of_cellAt_none {a : HostAddr} (h : cellAt a = none) (s : State) : hostRead a s = none := by
  simp only [hostRead, h]

/-- A read looks at the block alone, not at the model's fields for the host. -/
theorem readCell_host (c : Cell) (s : State) (pending : List HostEvent) (response : Option Response) :
    readCell c { s with pending := pending, response := response } = readCell c s := by
  cases c <;> rfl

/-- Two states read alike at an address when they do in the cell it names, if it names one. -/
theorem hostRead_congr {a : HostAddr} {s t : State} (h : ∀ c, a = addrOf c → readCell c s = readCell c t) :
    hostRead a s = hostRead a t := by
  cases hc : cellAt a with
  | none => rw [hostRead_of_cellAt_none hc, hostRead_of_cellAt_none hc]
  | some c =>
    obtain rfl := cellAt_eq_some_iff.mp hc
    rw [hostRead_addrOf, hostRead_addrOf, h c rfl]

theorem hostRead_host (a : HostAddr) (s : State) (pending : List HostEvent) (response : Option Response) :
    hostRead a { s with pending := pending, response := response } = hostRead a s :=
  hostRead_congr fun c _ => readCell_host c s pending response

/-- A read event is answered with what the address reads as, and with `err` where it reads as nothing. -/
theorem step_rd {s : State} {a : HostAddr} {rest : List HostEvent} (h : s.pending = .rd a :: rest) :
    step s = .next { s with pending := rest, response := some ((hostRead a s).elim .err .okData) } := by
  have hread : hostRead a { s with pending := rest } = hostRead a s := hostRead_host a s rest s.response
  simp only [step_of_pending h, doEvent, doRead, hread]
  cases hostRead a s <;> rfl

/-- The cells from 0x800 on hold the constant tables (R73). -/
theorem readCell_eq_of_table {c : Cell} (h : 0x800 ≤ (addrOf c).toNat) (s t : State) : readCell c s = readCell c t := by
  cases c with
  | romExp | romLog | romMap | romAlpha | romGen | romPrefix => rfl
  | id | cmd | status | dlen | clen | passes | gp | tinlen | toutlen => exact absurd h (by decide)
  | dec i | cw i | p i | syn i | tout i | tin i =>
    simp only [addrOf, BitVec.toNat_ofNat] at h
    omega

end Sys2Proof.Machine

/-! ## Host writes (R66, R68, R69) -/

namespace Sys2Proof.Machine

theorem acceptedWrite_eq_true {a d : Nat} : acceptedWrite a d = true ↔
    a = 0x000 ∨ (a = 0x007 ∧ d ≤ Config.tinCap) ∨ (0x200 ≤ a ∧ a ≤ 0x210 ∧ d ≤ 31) ∨ (0x500 ≤ a ∧ a ≤ 0x53F ∧ d ≤ 255) := by
  simp [acceptedWrite, or_assoc, and_assoc]

/-- The accepted writes are those that `writeCell` performs, in whatever state. -/
theorem acceptedWrite_iff {a : HostAddr} {d : HostData} (s : State) :
    acceptedWrite a.toNat d.toNat = true ↔ ∃ c t, a = addrOf c ∧ writeCell c d s = some t := by
  rw [acceptedWrite_eq_true]
  constructor
  · rintro (ha | ⟨ha, hd⟩ | ⟨hlo, hhi, hd⟩ | ⟨hlo, hhi, hd⟩)
    · exact ⟨.id, _, BitVec.eq_of_toNat_eq ha, rfl⟩
    · exact ⟨.tinlen, _, BitVec.eq_of_toNat_eq ha, if_pos hd⟩
    · refine ⟨.cw ⟨a.toNat - 0x200, by omega⟩, _, BitVec.eq_of_toNat_eq ?_, if_pos hd⟩
      simp only [addrOf, BitVec.toNat_ofNat]; omega
    · refine ⟨.tin ⟨a.toNat - 0x500, by omega⟩, _, BitVec.eq_of_toNat_eq ?_, if_pos hd⟩
      simp only [addrOf, BitVec.toNat_ofNat]; omega
  · rintro ⟨c, t, rfl, h⟩
    rcases writeCell_cases h with ⟨rfl, -⟩ | ⟨i, rfl, hd, -⟩ | ⟨i, rfl, hd, -⟩ | ⟨rfl, hd, -⟩
    · exact .inl rfl
    · simp only [addrOf, BitVec.toNat_ofNat]; omega
    · simp only [addrOf, BitVec.toNat_ofNat]; omega
    · exact .inr (.inl ⟨rfl, hd⟩)

theorem writeCell_pending {c : Cell} {d : HostData} {s t : State} (h : writeCell c d s = some t) : t.pending = s.pending := by
  rcases writeCell_cases h with ⟨-, rfl⟩ | ⟨i, -, -, rfl⟩ | ⟨i, -, -, rfl⟩ | ⟨-, -, rfl⟩ <;> rfl

/-- Data within a cell's width is read back whole: zero extension undoes the cut. -/
theorem setWidth_setWidth_of_lt {n : Nat} {d : HostData} (h : d.toNat < 2 ^ n) : (d.setWidth n).setWidth 64 = d := by
  apply BitVec.eq_of_toNat_eq
  rw [BitVec.toNat_setWidth, BitVec.toNat_setWidth, Nat.mod_eq_of_lt h, Nat.mod_eq_of_lt d.isLt]

theorem readCell_writeCell_same {c : Cell} {d : HostData} {s t : State} (h : writeCell c d s = some t) :
    readCell c t = some d := by
  rcases writeCell_cases h with ⟨rfl, rfl⟩ | ⟨i, rfl, hd, rfl⟩ | ⟨i, rfl, hd, rfl⟩ | ⟨rfl, hd, rfl⟩
  · rfl
  · have hwidth : d.toNat < 2 ^ 5 := by omega
    simp [readCell, setWidth_setWidth_of_lt hwidth]
  · have hwidth : d.toNat < 2 ^ 8 := by omega
    simp [readCell, setWidth_setWidth_of_lt hwidth]
  · have hwidth : d.toNat < 2 ^ 7 := by simp only [Config.tinCap] at hd; omega
    simp [readCell, setWidth_setWidth_of_lt hwidth]

theorem readCell_writeCell_ne {c c' : Cell} {d : HostData} {s t : State} (h : writeCell c d s = some t) (hne : c' ≠ c) :
    readCell c' t = readCell c' s := by
  rcases writeCell_cases h with ⟨rfl, rfl⟩ | ⟨i, rfl, -, rfl⟩ | ⟨i, rfl, -, rfl⟩ | ⟨rfl, -, rfl⟩
  · cases c' with
    | id => contradiction
    | _ => rfl
  · cases c' with
    | cw j =>
      have hij : i.val ≠ j.val := fun h => hne (congrArg Cell.cw (Fin.ext h.symm))
      simp [readCell, Vector.getElem_set_ne, hij]
    | _ => rfl
  · cases c' with
    | tin j =>
      have hij : i.val ≠ j.val := fun h => hne (congrArg Cell.tin (Fin.ext h.symm))
      simp [readCell, Vector.getElem_set_ne, hij]
    | _ => rfl
  · cases c' with
    | tinlen => contradiction
    | _ => rfl

theorem doWrite_of_writeCell {a : HostAddr} {c : Cell} {d : HostData} {s t : State} (ha : cellAt a = some c)
    (h : writeCell c d s = some t) : doWrite a d s = .next (answer .ok t) := by
  have hcmd : c ≠ .cmd := by rintro rfl; contradiction
  simp only [doWrite, ha, h]

/-- A write that no cell takes is answered `err`, unless it issues a command word. -/
theorem doWrite_of_refused {a : HostAddr} {d : HostData} {s : State} (h : ∀ c t, cellAt a = some c → writeCell c d s ≠ some t)
    (hcmd : ¬ (a = 0x001 ∧ d.toNat ≤ 65535)) : doWrite a d s = .next (answer .err s) := by
  unfold doWrite
  split
  · rfl
  · rename_i ha
    rw [if_neg fun hd => hcmd ⟨(cellAt_eq_cmd a).mp ha, hd⟩]
  · rename_i c _ ha
    split
    · rename_i t ht
      exact absurd ht (h c t ha)
    · rfl

end Sys2Proof.Machine

/-! ## The statements on the host's memory map -/

namespace Sys2Proof.Proofs
open Sys2Proof.Machine

/-- Settles O11: the written cell reads the data back, every other cell and with it every other address reads as before. -/
theorem acceptedWriteReplacesOneCell : Obligations.AcceptedWriteReplacesOneCell := by
  intro s rest a d hp hacc
  obtain ⟨c, t, rfl, ht⟩ := (acceptedWrite_iff { s with pending := rest }).mp hacc
  refine ⟨answer .ok t, ?_, ?_, rfl, ?_, fun b hb => ?_⟩
  · exact (step_of_pending hp).trans (doWrite_of_writeCell (cellAt_addrOf c) ht)
  · exact writeCell_pending ht
  · calc hostRead (addrOf c) (answer .ok t)
      _ = readCell c t := (hostRead_host _ t _ _).trans (hostRead_addrOf c t)
      _ = some d := readCell_writeCell_same ht
  · calc hostRead b (answer .ok t)
      _ = hostRead b t := hostRead_host b t _ _
      _ = hostRead b { s with pending := rest } :=
        hostRead_congr fun c' hc' => readCell_writeCell_ne ht fun h => hb (hc'.trans (congrArg addrOf h))
      _ = hostRead b s := hostRead_host b s rest s.response

/-- Settles O12: a write that is not accepted finds no cell that takes it, and `CMD` and the unmapped addresses read as nothing. -/
theorem refusedTransactionChangesNothing : Obligations.RefusedTransactionChangesNothing := by
  refine ⟨fun s rest a d hp hacc hcmd => ?_, fun s rest a hp ha => ?_⟩
  · have hrefused : ∀ c t, cellAt a = some c → writeCell c d { s with pending := rest } ≠ some t := fun c t hc ht =>
      absurd ((acceptedWrite_iff _).mpr ⟨c, t, cellAt_eq_some_iff.mp hc, ht⟩) (by simp [hacc])
    exact (step_of_pending hp).trans (doWrite_of_refused hrefused hcmd)
  · have hread : hostRead a s = none := by
      rcases ha with rfl | hunmapped
      · exact hostRead_addrOf .cmd s
      · exact hostRead_of_cellAt_none (cellAt_of_not_mapped hunmapped) s
    rw [step_rd hp, hread]; rfl

/-- Settles O9, by what a read event answers. -/
theorem readTransactionOnlyAnswers : Obligations.ReadTransactionOnlyAnswers := by
  intro s rest a hp
  refine ⟨fun d hd => ?_, fun hnone => ?_⟩
  · rw [step_rd hp, hd]; rfl
  · rw [step_rd hp, hnone]; rfl

/-- Settles O10: cell and address determine each other, so an address reads as the cell it is the address of. -/
theorem hostReadsFollowTheAddressMap : Obligations.HostReadsFollowTheAddressMap := by
  refine ⟨fun s => ?_, cellAt_addrOf, fun _ _ => addrOf_of_cellAt⟩
  have hread (c : Cell) : hostRead (addrOf c) s = readCell c s := hostRead_addrOf c s
  exact ⟨hread .id, hread .cmd, hread .status, hread .dlen, hread .clen, hread .passes, hread .gp, hread .tinlen, hread .toutlen,
    fun i => hread (.dec i), fun i => hread (.cw i), fun i => hread (.p i), fun i => hread (.syn i), fun i => hread (.tout i),
    fun i => hread (.tin i), fun i => hread (.romExp i), fun i => hread (.romLog i), fun i => hread (.romMap i),
    fun i => hread (.romAlpha i), fun i => hread (.romGen i), fun i => hread (.romPrefix i),
    fun _ h => hostRead_of_cellAt_none (cellAt_of_not_mapped h) s⟩

/-- Settles O14: the cells from 0x800 on are the tables', which are looked through entry by entry. -/
theorem tablesAreConstantAndConsistent : Obligations.TablesAreConstantAndConsistent := by
  refine ⟨fun s t a ha => hostRead_congr ?_, by decide, by decide, by decide, by decide⟩
  rintro c rfl
  exact readCell_eq_of_table ha s t

end Sys2Proof.Proofs

/-! ## The fields of a command word (R101 to R103) -/

namespace Sys2Proof

@[simp] theorem opField_toNat (w : CmdWord) : (opField w).toNat = w.toNat / 4096 := by
  simp only [opField, BitVec.extractLsb'_toNat, Nat.shiftRight_eq_div_pow]
  omega

@[simp] theorem mbzZ_toNat (w : CmdWord) : (mbzZ w).toNat = w.toNat % 4096 := by
  simp [mbzZ, BitVec.extractLsb'_toNat]

@[simp] theorem mbzG_toNat (w : CmdWord) : (mbzG w).toNat = w.toNat / 1024 % 4 := by
  simp [mbzG, BitVec.extractLsb'_toNat, Nat.shiftRight_eq_div_pow]

@[simp] theorem aField_toNat (w : CmdWord) : (aField w).toNat = w.toNat / 32 % 32 := by
  simp [aField, BitVec.extractLsb'_toNat, Nat.shiftRight_eq_div_pow]

@[simp] theorem bField_toNat (w : CmdWord) : (bField w).toNat = w.toNat % 32 := by
  simp [bField, BitVec.extractLsb'_toNat]

/-- R103's pattern `010100aaaaabbbbb` as a number. -/
theorem encode_gfmul_toNat (a b : Symbol) : (encode (.gfmul a b)).toNat = 0x5000 + 32 * a.toNat + b.toNat := by
  rw [encode, BitVec.toNat_append, BitVec.toNat_append, ← Nat.shiftLeft_add_eq_or_of_lt b.isLt,
    ← Nat.shiftLeft_add_eq_or_of_lt a.isLt, Nat.shiftLeft_eq, Nat.shiftLeft_eq, BitVec.toNat_ofNat]
  omega

theorem legalG_iff (w : CmdWord) : w.legalG = true ↔ opField w = 5 ∧ mbzG w = 0 := by
  simp [CmdWord.legalG, ← BitVec.toNat_inj]

theorem legalZ_iff (w : CmdWord) :
    w.legalZ = true ↔ (opField w).toNat ≤ 12 ∧ opField w ≠ 5 ∧ mbzZ w = 0 := by
  simp [CmdWord.legalZ, ← BitVec.toNat_inj, and_assoc]

end Sys2Proof

/-! ## Decoding and encoding (R104, R106) -/

namespace Sys2Proof

/-- The opcodes that format Z gives a meaning (R104). -/
theorem decodeOp_eq_command {op : BitVec 4} (hle : op.toNat ≤ 12) (hne : op ≠ 5) : ∃ i, decodeOp op = .command i := by
  have hne' : op.toNat ≠ 5 := fun h => hne (BitVec.eq_of_toNat_eq h)
  have hrange : op.toNat ≤ 4 ∨ 6 ≤ op.toNat := by omega
  unfold decodeOp
  rcases hrange with hlow | hhigh
  · interval_cases op.toNat <;> exact ⟨_, rfl⟩
  · interval_cases op.toNat <;> exact ⟨_, rfl⟩

/-- The word of a format-Z command is its opcode followed by zeros (R102). -/
theorem encode_toNat_of_decodeOp {op : BitVec 4} {i : Instr} (h : decodeOp op = .command i) :
    (encode i).toNat = 4096 * op.toNat := by
  unfold decodeOp at h
  split at h
  case h_13 => cases h
  all_goals
    rename_i hop
    cases h
    rw [hop]
    rfl

theorem decode_of_legalG {w : CmdWord} (h : w.legalG = true) : decode w = .command (.gfmul (aField w) (bField w)) := by
  obtain ⟨hop, hmbz⟩ := (legalG_iff w).mp h
  simp [decode, hop, hmbz]

theorem decode_of_legalZ {w : CmdWord} (h : w.legalZ = true) : decode w = decodeOp (opField w) := by
  obtain ⟨-, hop, hmbz⟩ := (legalZ_iff w).mp h
  rw [decode, if_neg hop, if_neg (not_not.mpr hmbz)]

/-- The two ways a word decodes to a command, by its format. -/
theorem decode_eq_command_cases {w : CmdWord} {i : Instr} (h : decode w = .command i) :
    (w.legalG = true ∧ i = .gfmul (aField w) (bField w)) ∨ (mbzZ w = 0 ∧ decodeOp (opField w) = .command i) := by
  unfold decode at h
  split_ifs at h with hop hmbz hmbz
  · cases h
    exact .inl ⟨(legalG_iff w).mpr ⟨hop, not_not.mp hmbz⟩, rfl⟩
  · exact .inr ⟨not_not.mp hmbz, h⟩

/-- R106: a word that decodes to a command is that command's own word. -/
theorem encode_of_decode {w : CmdWord} {i : Instr} (h : decode w = .command i) : encode i = w := by
  apply BitVec.eq_of_toNat_eq
  rcases decode_eq_command_cases h with ⟨hlegal, rfl⟩ | ⟨hmbz, hop⟩
  · have hfields : w.toNat / 4096 = 5 ∧ w.toNat / 1024 % 4 = 0 := by simpa [CmdWord.legalG] using hlegal
    rw [encode_gfmul_toNat, aField_toNat, bField_toNat]
    omega
  · have hzero : w.toNat % 4096 = 0 := by rw [← mbzZ_toNat, hmbz]; rfl
    rw [encode_toNat_of_decodeOp hop, opField_toNat]
    omega

/-- R106: `GFMUL`'s fields come back from its word by arithmetic; every other word is a constant. -/
theorem decode_encode (i : Instr) : decode (encode i) = .command i := by
  cases i with
  | gfmul a b =>
    have hw := encode_gfmul_toNat a b
    have hlegal : (encode (.gfmul a b)).legalG = true := by simp [CmdWord.legalG, hw]; omega
    have ha : aField (encode (.gfmul a b)) = a := BitVec.eq_of_toNat_eq (by rw [aField_toNat, hw]; omega)
    have hb : bField (encode (.gfmul a b)) = b := BitVec.eq_of_toNat_eq (by rw [bField_toNat, hw]; omega)
    rw [decode_of_legalG hlegal, ha, hb]
  | nop | ddd | r10t32 | r32t10 | dacc | rsenc | rschk | fmt | parse | encode | decode | clr => rfl

theorem legal_encode (i : Instr) : (encode i).legal = true := by
  cases i with
  | gfmul a b => exact (Laws.EncodesLegally.gfmul a b).1
  | nop | ddd | r10t32 | r32t10 | dacc | rsenc | rschk | fmt | parse | encode | decode | clr => rfl

/-- R106, R110: the words of formats Z and G, and no others, are commands. -/
theorem decode_command_iff_legal (w : CmdWord) : (∃ i, decode w = .command i) ↔ w.legal = true := by
  constructor
  · rintro ⟨i, h⟩
    rw [← encode_of_decode h]
    exact legal_encode i
  · intro h
    rcases Bool.or_eq_true_iff.mp h with hZ | hG
    · obtain ⟨hle, hne, -⟩ := (legalZ_iff w).mp hZ
      rw [decode_of_legalZ hZ]
      exact decodeOp_eq_command hle hne
    · exact ⟨_, decode_of_legalG hG⟩

theorem decode_illegal_of_not_legal {w : CmdWord} (h : w.legal = false) : ∃ why, decode w = .illegal why := by
  cases hd : decode w with
  | command i => simp [(decode_command_iff_legal w).mp ⟨i, hd⟩] at h
  | illegal why => exact ⟨why, rfl⟩

end Sys2Proof

/-! ## The issue of a command word (R67, R100, R110) -/

namespace Sys2Proof.Machine

theorem issueWord_of_command {w : CmdWord} {i : Instr} (h : decode w = .command i) (s : State) : issueWord w s = exec i s := by
  simp only [issueWord, h]

theorem issueWord_of_not_legal {w : CmdWord} (h : w.legal = false) (s : State) :
    issueWord w s = .next (endWith .illegalCommand s) := by
  obtain ⟨why, hwhy⟩ := decode_illegal_of_not_legal h
  simp only [issueWord, hwhy]

/-- A write to `CMD` in range is one step with the command it issues, answered `ok` (R67, R84). -/
theorem step_issue {s : State} {rest : List HostEvent} {d : HostData} (h : s.pending = .wr 0x001 d :: rest)
    (hd : d.toNat ≤ 65535) :
    step s = issueWord (d.setWidth 16) { s with pending := rest, response := some .ok } := by
  simp only [step_of_pending h, doEvent, doWrite, (cellAt_eq_cmd _).mpr rfl, if_pos hd, answer]

/-- The data of the line `WR CMD, word` is a command word in range, and is that word again when it is issued (R69, R118). -/
theorem expand_cmd (i : Instr) : ∃ d : HostData,
    expand (.cmd i) = [.wr 0x001 d] ∧ d.toNat ≤ 65535 ∧ d.setWidth 16 = encode i := by
  refine ⟨(encode i).setWidth 64, rfl, ?_, ?_⟩
  · rw [BitVec.toNat_setWidth]
    omega
  · exact BitVec.setWidth_setWidth_of_le _ (by decide)

end Sys2Proof.Machine

/-! ## The statements on the encoding -/

namespace Sys2Proof.Proofs
open Sys2Proof.Machine

/-- Settles O15: an `Instr` is well formed by its type. -/
theorem decodeInvertsEncode : Obligations.DecodeInvertsEncode := fun i _ => decode_encode i

/-- Settles O16, by the two formats of a word. -/
theorem decodeAcceptsExactlyTheLegalWords : Obligations.DecodeAcceptsExactlyTheLegalWords :=
  ⟨fun _ _ => encode_of_decode, decode_command_iff_legal⟩

/-- Settles O7: the step issues the word, and the issue runs the command. -/
theorem stepRunsTheDecodedCommand : Obligations.StepRunsTheDecodedCommand :=
  fun _ _ _ _ hp hd hi => (step_issue hp hd).trans (issueWord_of_command hi _)

/-- Settles O8: a word that is not legal decodes to the reason it is illegal. -/
theorem illegalWordOnlyWritesTheCode : Obligations.IllegalWordOnlyWritesTheCode :=
  fun _ _ _ hp hd hlegal => (step_issue hp hd).trans (issueWord_of_not_legal hlegal _)

/-- Settles O18: the line issues the command's word, which decodes to it (O15, O7). -/
theorem mnemonicLineRunsItsCommand : Obligations.MnemonicLineRunsItsCommand := by
  intro i s rest hp
  obtain ⟨d, hexpand, hd, hword⟩ := expand_cmd i
  rw [hexpand] at hp
  exact stepRunsTheDecodedCommand s rest d i hp hd (hword ▸ decode_encode i)

/-- Settles O17: the ten words are the words of their commands; the three others are evaluated. -/
theorem sampleWordsDecodeAsTheMapSays : Obligations.SampleWordsDecodeAsTheMapSays :=
  ⟨decode_encode .nop, decode_encode .ddd, decode_encode .r10t32, decode_encode .dacc, decode_encode (.gfmul 17 9),
    decode_encode .rsenc, decode_encode .rschk, decode_encode .fmt, decode_encode .parse, decode_encode .decode,
    by decide, by decide, by decide⟩

/-- Settles O39: the 256 bytes are looked up one by one. -/
theorem alphabetIndexByRanges : Obligations.AlphabetIndexByRanges := by
  unfold Obligations.AlphabetIndexByRanges
  decide +kernel

end Sys2Proof.Proofs

/-! ## What `DDD` and `DACC` answer (R130, R131, R135) -/

namespace Sys2Proof.Machine

/-- A number of `ID` has at most 20 decimal digits (R130). -/
theorem id_lt_pow_twenty (s : State) : s.id.toNat < 10 ^ 20 := by
  have := s.id.isLt
  omega

theorem execDdd_eq (s : State) : exec .ddd s = .next (endWith .ok
    { s with dec := decCells (sigDigits s.id.toNat), dlen := BitVec.ofNat 5 (decLength s.id.toNat) }) := rfl

/-- The number of digits fits `DLEN`. -/
theorem ofNat_decLength_toNat (n : Nat) : (BitVec.ofNat 5 (decLength n)).toNat = decLength n := by
  have := decLength_le n
  rw [BitVec.toNat_ofNat]
  omega

/-- R131's digits, and its zeros beyond them. -/
theorem sigDigits_getD (n i : Nat) :
    (sigDigits n).getD i 0 = if i < decLength n then n / 10 ^ (decLength n - 1 - i) % 10 else 0 := by
  split
  · next h => rw [List.getD_eq_getElem _ _ (by rwa [sigDigits_length])]; simp [sigDigits]
  · next h => rw [List.getD_eq_default _ _ (by rw [sigDigits_length]; omega)]

/-- A digit fits its cell. -/
theorem decCells_sigDigits_toNat {n : Nat} (hlt : n < 10 ^ 20) (i : Fin 20) :
    ((decCells (sigDigits n))[i]).toNat = (sigDigits n).getD i.val 0 := by
  have hdigit := (sigDigits_canonical hlt).getD_lt i.val
  rw [Fin.getElem_fin, decCells_getElem, BitVec.toNat_ofNat]
  omega

theorem execDacc_of_lt {s : State} (hlen : s.dlen.toNat ≤ 20) (hv : s.decValue < 2 ^ 64) :
    exec .dacc s = .next { s with id := BitVec.ofNat 64 s.decValue, code := 0 } := by
  have hunit : unitDacc s = storeId s.decValue s := unitDacc_of_le hlen
  rcases storeId_cases s.decValue s with ⟨hge, -⟩ | ⟨-, hstore⟩
  · exact absurd hv (Nat.not_lt.mpr hge)
  · exact congrArg Ending.finish (hunit.trans hstore)

/-- `DACC` writes to `ID` the number that has the value of the digits, whatever `ID` held before. -/
theorem execDacc_of_decValue_eq {s : State} {n : BitVec 64} (hlen : s.dlen.toNat ≤ 20) (hv : s.decValue = n.toNat) :
    exec .dacc s = .next { s with id := n, code := 0 } := by
  rw [execDacc_of_lt hlen (hv ▸ n.isLt), hv, BitVec.ofNat_toNat, BitVec.setWidth_eq]

theorem execDacc_of_ge {s : State} (hlen : s.dlen.toNat ≤ 20) (hv : 2 ^ 64 ≤ s.decValue) :
    exec .dacc s = .next { s with code := 3 } := by
  have hunit : unitDacc s = storeId s.decValue s := unitDacc_of_le hlen
  rcases storeId_cases s.decValue s with ⟨-, hstore⟩ | ⟨hlt, -⟩
  · exact congrArg Ending.finish (hunit.trans hstore)
  · exact absurd hlt (Nat.not_lt.mpr hv)

end Sys2Proof.Machine

/-! ## The statements on decimal digits -/

namespace Sys2Proof.Proofs
open Sys2Proof.Machine

/-- Settles O21: the length is `decLength` of `ID`, which lies between the powers of ten, and the cells hold `sigDigits`. -/
theorem dddWritesTheDecimalDigits : Obligations.DddWritesTheDecimalDigits := by
  refine ⟨decode_encode .ddd, fun s => ⟨_, execDdd_eq s, rfl, ?_⟩⟩
  have hlt := id_lt_pow_twenty s
  simp only [endWith_dlen, endWith_dec, ofNat_decLength_toNat]
  refine ⟨one_le_decLength _, decLength_le _, fun h0 => ?_, fun hne => ?_, fun i => ?_⟩
  · rw [h0]; rfl
  · have hn : s.id.toNat ≠ 0 := fun h => hne (BitVec.eq_of_toNat_eq h)
    exact ⟨pow_decLength_le hn hlt, lt_pow_decLength hlt⟩
  · rw [decCells_sigDigits_toNat hlt, sigDigits_getD]

/-- Settles O23: the digits `DDD` leaves have the value of `ID`, and the write to `ID` between does not reach them. -/
theorem daccAfterDddRestoresId : Obligations.DaccAfterDddRestoresId := by
  intro s x
  obtain ⟨dec, dlen, hunit, hform, hval⟩ := unitDdd_spec s
  exact ⟨_, congrArg Ending.finish hunit, execDacc_of_decValue_eq hform.length.2 hval⟩

/-- Settles O22, by the two ends of `DACC`. -/
theorem daccStoresTheValueOrOverflows : Obligations.DaccStoresTheValueOrOverflows :=
  ⟨decode_encode .dacc, fun _ => execDacc_of_lt, fun _ => execDacc_of_ge⟩

end Sys2Proof.Proofs

/-! ## The value of a digit sequence and its digits -/

namespace Sys2Proof.Machine

/-- R10's value, most significant digit first, is Mathlib's of the digits read the other way round. -/
theorem val_eq_ofDigits (b : Nat) (d : List Nat) : val b d = Nat.ofDigits b d.reverse := by
  induction d with
  | nil => rfl
  | cons x xs ih => rw [val_cons, ih, Nat.ofDigits_reverse_cons]; ring

/-- The digit of weight `b^k` by division (R155 (c)). -/
theorem reverse_getD_eq_val_div_mod {b : Nat} {d : List Nat} (hd : ∀ x ∈ d, x < b) {k : Nat} (hk : k < d.length) :
    d.reverse.getD k 0 = val b d / b ^ k % b := by
  have hrev : ∀ x ∈ d.reverse, x < b := fun x hx => hd x (List.mem_reverse.mp hx)
  have hk' : k < d.reverse.length := by rwa [List.length_reverse]
  have hlt : d.reverse[k] < b := hrev _ (List.getElem_mem hk')
  rw [val_eq_ofDigits, Nat.ofDigits_div_pow_eq_ofDigits_drop k (Nat.zero_lt_of_lt hlt) _ hrev, List.drop_eq_getElem_cons hk',
    Nat.ofDigits_cons, Nat.add_mul_mod_self_left, Nat.mod_eq_of_lt hlt, List.getD_eq_getElem _ _ hk']

/-- Digits that fit a larger base bound the value by the powers of that base. -/
theorem val_lt_pow_of_le {b c : Nat} (hbc : b ≤ c) {d : List Nat} (hd : ∀ x ∈ d, x < c) : val b d < c ^ d.length := by
  refine lt_of_le_of_lt ?_ (val_lt hd)
  clear hd
  induction d with
  | nil => exact Nat.le_refl _
  | cons x xs ih =>
    rw [val_cons, val_cons]
    exact Nat.add_le_add (Nat.mul_le_mul_left x (Nat.pow_le_pow_left hbc _)) ih

/-- Without a leading zero only the empty sequence has the value 0. -/
theorem val_eq_zero_iff_of_head {b : Nat} (hb : 1 ≤ b) {d : List Nat} (hh : d.head? ≠ some 0) : val b d = 0 ↔ d = [] := by
  cases d with
  | nil => simp
  | cons x xs =>
    have hpos : 0 < val b (x :: xs) := (Nat.pow_pos hb).trans_le (le_val_cons (by simpa using hh))
    simpa using hpos.ne'

/-- A canonical sequence is determined by its value (R155). -/
theorem Canonical.eq_of_val_eq {b : Nat} (hb : 1 < b) {d e : List Nat} (hd : Canonical b d) (he : Canonical b e)
    (h : val b d = val b e) : d = e := by
  have hlen : d.length = e.length := le_antisymm
    (hd.length_le hb he.length_pos (h ▸ val_lt he.digits)) (he.length_le hb hd.length_pos (h ▸ val_lt hd.digits))
  rw [val_eq_ofDigits, val_eq_ofDigits] at h
  exact List.reverse_injective (Nat.ofDigits_inj_of_len_eq hb (by simpa using hlen)
    (fun x hx => hd.digits x (List.mem_reverse.mp hx)) (fun x hx => he.digits x (List.mem_reverse.mp hx)) h)

theorem Canonical.eq_zero_of_val_eq_zero {b : Nat} (hb : 1 < b) {d : List Nat} (hd : Canonical b d) (h : val b d = 0) : d = [0] :=
  hd.eq_of_val_eq hb (canonical_singleton (by omega)) (by simpa using h)

/-- A canonical sequence has no fewer digits than its value needs. -/
theorem Canonical.pow_le_val {b : Nat} {d : List Nat} (hd : Canonical b d) (h : val b d ≠ 0) : b ^ (d.length - 1) ≤ val b d := by
  have hh := hd.head_ne_zero h
  cases d with
  | nil => exact absurd rfl hd.ne_nil
  | cons x xs => exact le_val_cons (by simpa using hh)

end Sys2Proof.Machine

/-! ## The conversion of any sequence by its value

`DEC` can hold cells above 9 in a state without R24. The passes see only the value of the dividend, so that such a sequence converts
as any other of the same value does, in whatever base. -/

namespace Sys2Proof.Machine

/-- Two dividends of the same value, in whatever bases, emit the same digits. -/
theorem passLoop_eq_of_val_eq {b c b2 : Nat} (hb : 1 ≤ b) (hc : 1 ≤ c) (hb2 : 1 ≤ b2) (fuel : Nat) {w v : List Nat}
    (h : val b w = val c v) : passLoop b b2 fuel w = passLoop c b2 fuel v := by
  induction fuel generalizing w v with
  | zero => rfl
  | succ fuel ih =>
    obtain ⟨hwr, hwq⟩ := divPass_mod_div (b1 := b) (w := w) hb2
    obtain ⟨hvr, hvq⟩ := divPass_mod_div (b1 := c) (w := v) hb2
    have hrem : (divPass b b2 w).2 = (divPass c b2 v).2 := by rw [hwr, hvr, h]
    have hquot : val b (divPass b b2 w).1 = val c (divPass c b2 v).1 := by rw [hwq, hvq, h]
    have hstop : (divPass b b2 w).1 = [] ↔ (divPass c b2 v).1 = [] := by
      rw [← val_eq_zero_iff_of_head hb (divPass_head_ne_zero hb2), ← val_eq_zero_iff_of_head hc (divPass_head_ne_zero hb2), hquot]
    rw [passLoop_succ, passLoop_succ, hrem, ih hquot, if_congr hstop rfl rfl]

/-- The loop's result for digits of any size: the dividend is taken as the one digit of its value in a base above it. -/
theorem passLoop_spec_of_pos {b1 b2 : Nat} (hb1 : 1 ≤ b1) (hb2 : 2 ≤ b2) (fuel : Nat) {w : List Nat}
    (hv : val b1 w < b2 ^ (fuel + 1)) :
    val b2 (passLoop b1 b2 (fuel + 1) w).reverse = val b1 w ∧ Canonical b2 (passLoop b1 b2 (fuel + 1) w).reverse := by
  have hone : val (val b1 w + 1) [val b1 w] = val b1 w := val_singleton _ _
  have hspec := passLoop_spec (b1 := val b1 w + 1) hb2 fuel (w := [val b1 w]) (by simp) (by rwa [hone])
  rwa [hone, ← passLoop_eq_of_val_eq hb1 (Nat.le_add_left _ _) (by omega) (fuel + 1) hone.symm] at hspec

/-- The converter's output is the emission list the other way round, so what is emitted is what is answered (R154, R155). -/
theorem rconv_spec {b1 b2 : Nat} (hb2 : 2 ≤ b2) {d : List Nat} (hd : ∀ x ∈ d, x < b1) :
    val b2 (rconv b1 b2 d).1 = val b1 d ∧ Canonical b2 (rconv b1 b2 d).1 := emitted_spec hb2 hd

theorem rconv_snd (b1 b2 : Nat) (d : List Nat) : (rconv b1 b2 d).2 = (rconv b1 b2 d).1.length :=
  List.length_reverse.symm

/-- A pass over zeros leaves no quotient and emits a zero (R158). -/
theorem divPass_replicate_zero {b2 : Nat} (hb2 : 1 ≤ b2) (b1 n : Nat) : divPass b1 b2 (List.replicate n 0) = ([], 0) := by
  rw [divPass]
  induction n with
  | zero => rfl
  | succ n ih => rw [List.replicate_succ, passFrom_cons_lt_unstored _ (by omega), Nat.zero_mul]; exact ih

/-- A cell of `DEC` holds no more than 15, whatever the state. -/
theorem decimal_lt_sixteen (s : State) : ∀ x ∈ s.decimal, x < 16 := by
  intro x hx
  obtain ⟨c, -, rfl⟩ := List.mem_map.mp hx
  exact c.isLt

/-- The bound on the passes is not met for the cells of `DEC` either (log 11). -/
theorem emitted_decimal_spec (s : State) :
    val 32 (emitted 10 32 s.decimal).reverse = s.decValue ∧ Canonical 32 (emitted 10 32 s.decimal).reverse := by
  refine passLoop_spec_of_pos (by omega) (by omega) (10 * s.decimal.length) ?_
  calc val 10 s.decimal < 16 ^ s.decimal.length := val_lt_pow_of_le (by omega) (decimal_lt_sixteen s)
    _ ≤ 32 ^ s.decimal.length := Nat.pow_le_pow_left (by omega) _
    _ ≤ 32 ^ (10 * s.decimal.length + 1) := Nat.pow_le_pow_right (by omega) (by omega)

end Sys2Proof.Machine

/-! ## The canonical contents of `DEC`, and of the data cells of `CW` -/

namespace Sys2Proof.Machine

theorem decimal_length {s : State} (h : s.dlen.toNat ≤ 20) : s.decimal.length = s.dlen.toNat := by
  simp [State.decimal, h]

theorem decimal_getD {s : State} {i : Nat} (hi : i < 20) :
    s.decimal.getD i 0 = if i < s.dlen.toNat then (s.dec[i]).toNat else 0 := by
  simp only [State.decimal, List.getD_eq_getElem?_getD, List.getElem?_map, List.getElem?_take]
  split <;> simp [hi]

/-- Under R24 the significant digits are a canonical sequence. -/
theorem State.DecimalForm.canonical {s : State} (h : s.DecimalForm) : Canonical 10 s.decimal where
  digits x hx := by
    obtain ⟨i, hi, rfl⟩ := List.getElem_of_mem hx
    rw [decimal_length h.length.2] at hi
    have hdigit := h.digits ⟨i, hi.trans_le h.length.2⟩
    simp only [State.decimal, List.getElem_map, List.getElem_take, Vector.getElem_toList]
    exact Nat.lt_succ_of_le hdigit
  ne_nil := List.ne_nil_of_length_pos (by rw [decimal_length h.length.2]; exact h.length.1)
  leading := by
    rw [decimal_length h.length.2]
    refine h.leading.imp_right fun hne hhead => hne (BitVec.eq_of_toNat_eq ?_)
    have hpos : 0 < s.dlen.toNat := h.length.1
    have hfirst := decimal_getD (s := s) (i := 0) (by omega)
    rw [if_pos hpos, List.getD_eq_getElem?_getD, ← List.head?_eq_getElem?, hhead] at hfirst
    exact hfirst.symm

/-- Under R24 the cells are those the significant digits fill, the others being zero. -/
theorem State.DecimalForm.dec_eq {s : State} (h : s.DecimalForm) : s.dec = decCells s.decimal := by
  ext i hi : 1
  rw [decCells_getElem _ _ hi, decimal_getD hi]
  split
  · simp
  · next hge => exact h.padding ⟨i, hi⟩ (Nat.le_of_not_lt hge)

/-- Under R24 the value determines `DEC` and `DLEN`. -/
theorem State.DecimalForm.eq_of_decValue_eq {s t : State} (hs : s.DecimalForm) (ht : t.DecimalForm)
    (hv : s.decValue = t.decValue) : s.dec = t.dec ∧ s.dlen = t.dlen := by
  have hdecimal : s.decimal = t.decimal := hs.canonical.eq_of_val_eq (by omega) ht.canonical hv
  refine ⟨by rw [hs.dec_eq, ht.dec_eq, hdecimal], BitVec.eq_of_toNat_eq ?_⟩
  rw [← decimal_length hs.length.2, ← decimal_length ht.length.2, hdecimal]

theorem symbolsValue_eq_ofDigits (cw : Vector Symbol 17) :
    symbolsValue cw = Nat.ofDigits 32 ((cw.toList.take 13).map BitVec.toNat) := by
  have h := val_dataDigits { State.reset with cw := cw }
  rwa [val_eq_ofDigits, dataDigits, List.map_reverse, List.reverse_reverse, eq_comm] at h

/-- The data cells take a sequence of symbols least significant first, with its value (R160). -/
theorem symbolsValue_putData {d : List Nat} (hd : ∀ x ∈ d, x < 32) (hlen : d.length ≤ 13) (cw : Vector Symbol 17) :
    symbolsValue (putData (d.reverse.map (BitVec.ofNat 5)) cw) = val 32 d := by
  have hcells : ((putData (d.reverse.map (BitVec.ofNat 5)) cw).toList.take 13).map BitVec.toNat =
      d.reverse ++ List.replicate (13 - d.length) 0 := by
    refine List.ext_getElem (by simp [hlen]) fun k hk _ => ?_
    have hk : k < 13 := by simpa using hk
    by_cases hin : k < d.length
    · have hlt : d[d.length - 1 - k] < 32 := hd _ (List.getElem_mem _)
      simp [hk, hin, Nat.mod_eq_of_lt hlt]
    · rw [List.getElem_append_right (by simpa using hin)]
      simp [hk, hin]
  rw [symbolsValue_eq_ofDigits, hcells, Nat.ofDigits_append_replicate_zero, val_eq_ofDigits]

/-- The value of the data symbols and the parity symbols determine the codeword. -/
theorem cw_eq_of_symbolsValue_eq {cw cw' : Vector Symbol 17} (hv : symbolsValue cw = symbolsValue cw')
    (hparity : ∀ k : Fin 17, 13 ≤ k.val → cw[k] = cw'[k]) : cw = cw' := by
  have hdigits (c : Vector Symbol 17) : ∀ x ∈ (c.toList.take 13).map BitVec.toNat, x < 32 := by
    intro x hx
    obtain ⟨y, -, rfl⟩ := List.mem_map.mp hx
    exact y.isLt
  rw [symbolsValue_eq_ofDigits, symbolsValue_eq_ofDigits] at hv
  have hdata := Nat.ofDigits_inj_of_len_eq (by omega) (by simp) (hdigits cw) (hdigits cw') hv
  ext k hk : 1
  by_cases hk13 : k < 13
  · refine BitVec.eq_of_toNat_eq ?_
    simpa [hk13] using congrArg (fun symbols : List Nat => symbols.getD k 0) hdata
  · exact hparity ⟨k, hk⟩ (Nat.le_of_not_lt hk13)

end Sys2Proof.Machine

/-! ## What `R10T32` answers (R160 to R162) -/

namespace Sys2Proof.Machine

/-- The canonical base-32 sequence of the value of `DEC`, in the data cells and counted in `PASSES`. -/
theorem unitR10t32_spec {s : State} (hlen : s.dlen.toNat ≤ 20) (hv : s.decValue < 2 ^ 65) :
    ∃ d, Canonical 32 d ∧ val 32 d = s.decValue ∧ d.length ≤ 13 ∧ unitR10t32 s = .done { s with
      cw := putData (d.reverse.map (BitVec.ofNat 5)) s.cw, passes := BitVec.ofNat 5 d.length } := by
  obtain ⟨hval, hcanon⟩ := emitted_decimal_spec s
  have hfits := hcanon.length_le (n := 13) (by omega) (by omega) (by rw [hval]; exact hv)
  have hunit : unitR10t32 s = storeSymbols s.decimal s := unitR10t32_of_le hlen
  refine ⟨_, hcanon, hval, hfits, hunit.trans ?_⟩
  rcases storeSymbols_cases s.decimal s with ⟨-, hstore⟩ | ⟨hwide, -⟩
  · simpa using hstore
  · rw [List.length_reverse] at hfits; omega

/-- A value of 2^65 or more needs more than 13 symbols (R162, log 5). -/
theorem unitR10t32_of_ge {s : State} (hlen : s.dlen.toNat ≤ 20) (hv : 2 ^ 65 ≤ s.decValue) :
    unitR10t32 s = .stopRefused .decimalTooWide := by
  obtain ⟨hval, hcanon⟩ := emitted_decimal_spec s
  have hunit : unitR10t32 s = storeSymbols s.decimal s := unitR10t32_of_le hlen
  rcases storeSymbols_cases s.decimal s with ⟨hfits, -⟩ | ⟨-, hstore⟩
  · have hlt := val_lt hcanon.digits
    have hpow : 32 ^ (emitted 10 32 s.decimal).length ≤ 32 ^ 13 := Nat.pow_le_pow_right (by omega) hfits
    rw [hval, List.length_reverse] at hlt
    omega
  · exact hunit.trans hstore

end Sys2Proof.Machine

/-! ## The statements on the radix converter -/

namespace Sys2Proof.Proofs
open Sys2Proof.Machine

/-- Settles O24, by the laws of one pass. -/
theorem passDividesByTheBase : Obligations.PassDividesByTheBase := by
  intro b1 b2 w hb hw
  obtain ⟨hrem, hquot⟩ := divPass_mod_div (b1 := b1) (w := w) hb
  exact ⟨hrem, hquot, divPass_head_ne_zero hb, divPass_digits hb hw, divPass_eq_nil_iff hb hw⟩

/-- Settles O25: the output is the canonical sequence of the value. -/
theorem conversionPreservesTheValue : Obligations.ConversionPreservesTheValue := by
  intro b1 b2 d _ hb2 hd
  obtain ⟨hval, hcanon⟩ := rconv_spec hb2 hd
  rw [rconv_snd, ← hval]
  exact ⟨rfl, hcanon.digits, rfl, hcanon.eq_zero_of_val_eq_zero hb2, fun hne => ⟨hcanon.pow_le_val hne, val_lt hcanon.digits⟩,
    fun _ => reverse_getD_eq_val_div_mod hcanon.digits⟩

/-- Settles O26: the first pass is the last, since it leaves no quotient. -/
theorem allZeroInputTakesOnePass : Obligations.AllZeroInputTakesOnePass := by
  intro b1 b2 n hb2
  have hone : emitted b1 b2 (List.replicate n 0) = [0] := by
    rw [emitted, passBound, passLoop_succ, divPass_replicate_zero hb2, if_pos rfl]
  rw [rconv, hone]; rfl

/-- Settles O27: the data cells hold the canonical base-32 sequence of the value, and `PASSES` its length. -/
theorem r10t32ConvertsTheDigitsToSymbols : Obligations.R10t32ConvertsTheDigitsToSymbols := by
  refine ⟨decode_encode .r10t32, fun s hlen hv => ?_⟩
  obtain ⟨d, hcanon, hval, hfits, hunit⟩ := unitR10t32_spec hlen hv
  have hpasses : (BitVec.ofNat 5 d.length).toNat = d.length := by rw [BitVec.toNat_ofNat]; omega
  refine ⟨_, congrArg Ending.finish hunit, rfl, fun k hk => ?_, ?_, fun h0 => ?_, fun hne => ?_⟩
  · simp [Nat.not_lt.mpr hk]
  · exact (symbolsValue_putData hcanon.digits hfits s.cw).trans hval
  · rw [endWith_passes, hcanon.eq_zero_of_val_eq_zero (by omega) (hval.trans h0)]; rfl
  · rw [endWith_passes, hpasses, ← hval]
    exact ⟨hcanon.length_pos, hcanon.pow_le_val (hval ▸ hne), val_lt hcanon.digits⟩

/-- Settles O28, by what the unit leaves. -/
theorem r32t10ConvertsTheSymbolsToDigits : Obligations.R32t10ConvertsTheSymbolsToDigits := by
  refine ⟨decode_encode .r32t10, fun s => ?_⟩
  obtain ⟨dec, dlen, hunit, hform, hval⟩ := unitR32t10_spec s
  exact ⟨_, congrArg Ending.finish hunit, rfl, hform.congr rfl rfl, hval, rfl⟩

/-- Settles O29: each conversion keeps the value (O27, O28), and the value determines what the other one overwrites. -/
theorem conversionsUndoEachOther : Obligations.ConversionsUndoEachOther := by
  obtain ⟨-, toSymbols⟩ := r10t32ConvertsTheDigitsToSymbols
  obtain ⟨-, toDigits⟩ := r32t10ConvertsTheSymbolsToDigits
  constructor
  · intro s hs
    obtain ⟨t, ht, -, -, htval, -⟩ := toSymbols s hs.length.2 hs.bound
    obtain ⟨u, hu, -, huform, huval, -⟩ := toDigits t
    obtain ⟨hdec, hdlen⟩ := huform.eq_of_decValue_eq hs (huval.trans htval)
    exact ⟨t, u, ht, hu, hdec, hdlen⟩
  · intro s
    obtain ⟨t, ht, htframe, htform, htval, -⟩ := toDigits s
    obtain ⟨u, hu, -, huparity, huval, -⟩ := toSymbols t htform.length.2 htform.bound
    have htcw : t.cw = s.cw := by rw [htframe]
    rw [htcw] at huparity
    exact ⟨t, u, ht, hu, cw_eq_of_symbolsValue_eq (huval.trans htval) huparity⟩

/-- Settles O6: the buffers are not read beyond their ends, and the conversion does not lose symbols. -/
theorem stopsStandOutsideTheLegalStates : Obligations.StopsStandOutsideTheLegalStates := by
  refine ⟨fun s hlen => ⟨?_, ?_⟩, fun s hlen => ⟨?_, ?_⟩, fun s hlen hv => ?_⟩
  · exact congrArg Ending.finish (unitR10t32_of_gt hlen)
  · exact congrArg Ending.finish (unitDacc_of_gt hlen)
  · exact congrArg Ending.finish (unitParse_of_gt hlen)
  · exact congrArg (fun e => ((e.andThen unitR32t10).andThen unitDacc).finish) (unitParse_of_gt hlen)
  · exact congrArg Ending.finish (unitR10t32_of_ge hlen hv)

end Sys2Proof.Proofs

/-! ## Discrete logarithms in GF(32) (R180, R80 (b))

Every symbol but zero is a power of the primitive element, and the tables turn a product of powers into a sum of exponents. -/

namespace Sys2Proof.Machine

theorem logOf_lt (a : Symbol) : logOf a < 31 := by decide +revert

theorem expAt_logOf {a : Symbol} (ha : a ≠ 0) : expAt (logOf a) = a := by
  obtain ⟨-, hexpLog, -⟩ := Proofs.tablesAreConstantAndConsistent
  simp only [expAt, Nat.mod_eq_of_lt (logOf_lt a)]
  exact hexpLog a ha

theorem logOf_expAt (n : Nat) : logOf (expAt n) = n % 31 := by
  obtain ⟨-, -, hlogExp, -⟩ := Proofs.tablesAreConstantAndConsistent
  have hlog := congrArg BitVec.toNat (hlogExp ⟨n % 31, Nat.mod_lt _ (by omega)⟩).1
  rw [BitVec.toNat_ofNat, Nat.mod_eq_of_lt (a := n % 31) (by omega)] at hlog
  exact hlog

theorem expAt_ne_zero (n : Nat) : expAt n ≠ 0 := by
  obtain ⟨-, -, hlogExp, -⟩ := Proofs.tablesAreConstantAndConsistent
  exact (hlogExp ⟨n % 31, Nat.mod_lt _ (by omega)⟩).2

theorem expAt_zero : expAt 0 = 1 := rfl

theorem expAt_mod (n : Nat) : expAt (n % 31) = expAt n := by simp only [expAt, Nat.mod_mod]

theorem eq_zero_or_eq_expAt (a : Symbol) : a = 0 ∨ ∃ n, a = expAt n :=
  (eq_or_ne a 0).imp_right fun ha => ⟨logOf a, (expAt_logOf ha).symm⟩

theorem gmul_zero (a : Symbol) : gmul a 0 = 0 := if_pos (.inr rfl)

theorem zero_gmul (a : Symbol) : gmul 0 a = 0 := if_pos (.inl rfl)

/-- The exponents are added modulo 31, the order of the primitive element (R180). -/
theorem gmul_expAt (m n : Nat) : gmul (expAt m) (expAt n) = expAt (m + n) := by
  rw [gmul, if_neg (not_or.mpr ⟨expAt_ne_zero m, expAt_ne_zero n⟩), logOf_expAt, logOf_expAt, ← expAt_mod, ← Nat.add_mod,
    expAt_mod]

/-! ## The multiplicative laws (R182 (a) to (d), (f), (g)) -/

theorem gmul_comm (a b : Symbol) : gmul a b = gmul b a := by
  simp only [gmul, or_comm, Nat.add_comm]

theorem gmul_assoc (a b c : Symbol) : gmul (gmul a b) c = gmul a (gmul b c) := by
  rcases eq_zero_or_eq_expAt a with rfl | ⟨i, rfl⟩
  · simp only [zero_gmul]
  rcases eq_zero_or_eq_expAt b with rfl | ⟨j, rfl⟩
  · simp only [zero_gmul, gmul_zero]
  rcases eq_zero_or_eq_expAt c with rfl | ⟨k, rfl⟩
  · simp only [gmul_zero]
  simp only [gmul_expAt, Nat.add_assoc]

theorem gmul_one (a : Symbol) : gmul a 1 = a := by
  rcases eq_zero_or_eq_expAt a with rfl | ⟨n, rfl⟩
  · rw [zero_gmul]
  · rw [← expAt_zero, gmul_expAt, Nat.add_zero]

theorem one_gmul (a : Symbol) : gmul 1 a = a := by rw [gmul_comm, gmul_one]

theorem eq_zero_or_eq_zero_of_gmul_eq_zero {a b : Symbol} (h : gmul a b = 0) : a = 0 ∨ b = 0 := by
  by_contra hne
  rw [gmul, if_neg hne] at h
  exact expAt_ne_zero _ h

/-- The inverse has the opposite logarithm (R182 (g)). -/
theorem gmul_expAt_neg_logOf {a : Symbol} (ha : a ≠ 0) : gmul a (expAt (31 - logOf a)) = 1 :=
  calc gmul a (expAt (31 - logOf a))
    _ = gmul (expAt (logOf a)) (expAt (31 - logOf a)) := by rw [expAt_logOf ha]
    _ = expAt (logOf a + (31 - logOf a)) := gmul_expAt _ _
    _ = expAt 31 := by rw [Nat.add_sub_cancel' (logOf_lt a).le]
    _ = 1 := rfl

/-! ## Multiplication by `x`, and the distributive law (R182 (e), (i))

The primitive element is the polynomial `x`, the symbol 2. Its product is a shift and a reduction, which is linear; and every factor
but zero is a power of it. -/

/-- The product of a polynomial by `x`: shifted left once and reduced by x^5 = x^2 + 1 (R181). -/
def timesX (b : Symbol) : Symbol := b <<< 1 ^^^ (if b.msb then 0b00101 else 0)

theorem timesX_xor (b c : Symbol) : timesX (b ^^^ c) = timesX b ^^^ timesX c := by
  have hreduce (p q : Bool) : (if p ^^ q then 0b00101 else 0 : Symbol) =
      (if p then 0b00101 else 0) ^^^ (if q then 0b00101 else 0) := by
    cases p <;> cases q <;> rfl
  rw [timesX, BitVec.msb_xor, hreduce, BitVec.shiftLeft_xor_distrib, timesX, timesX]
  ac_rfl

/-- `EXP` lists the powers of `x` (R181). -/
theorem expAt_succ (n : Nat) : expAt (n + 1) = timesX (expAt n) := by
  have hperiod : ∀ i : Fin 31, expAt (i.val + 1) = timesX (expAt i.val) := by decide
  have h := hperiod ⟨n % 31, Nat.mod_lt _ (by omega)⟩
  rwa [← expAt_mod, Nat.mod_add_mod, expAt_mod, expAt_mod] at h

theorem two_gmul (b : Symbol) : gmul 2 b = timesX b := by
  rcases eq_zero_or_eq_expAt b with rfl | ⟨n, rfl⟩
  · rw [gmul_zero]; rfl
  · rw [← expAt_succ, Nat.add_comm]; exact gmul_expAt 1 n

theorem expAt_succ_gmul (n : Nat) (b : Symbol) : gmul (expAt (n + 1)) b = timesX (gmul (expAt n) b) := by
  rw [expAt_succ, ← two_gmul, gmul_assoc, two_gmul]

/-- Multiplication by a power of `x` is that many multiplications by `x`, each linear. -/
theorem gmul_xor (a b c : Symbol) : gmul a (b ^^^ c) = gmul a b ^^^ gmul a c := by
  rcases eq_zero_or_eq_expAt a with rfl | ⟨n, rfl⟩
  · simp only [zero_gmul]; rfl
  induction n with
  | zero => simp only [expAt_zero, one_gmul]
  | succ n ih => rw [expAt_succ_gmul, ih, timesX_xor, ← expAt_succ_gmul, ← expAt_succ_gmul]

/-! ## The product without tables (R181) -/

/-- The loop's doubling of `a` is the product by `x`. -/
theorem timesX_toNat (a : Symbol) :
    (timesX a).toNat = if 32 ≤ a.toNat * 2 then (a.toNat * 2) ^^^ 0b100101 else a.toNat * 2 := by decide +revert

/-- A polynomial is its constant term and `x` times the rest. -/
theorem eq_constant_xor_timesX (b : Symbol) : b = (if b.toNat % 2 = 1 then (1 : Symbol) else 0) ^^^ timesX (b >>> 1) := by decide +revert

/-- Shift and add: the lowest bit of `b` contributes `a`, the others multiply `a` times `x`. -/
theorem gmul_eq_lowBit_xor (a b : Symbol) :
    gmul a b = (if b.toNat % 2 = 1 then a else 0) ^^^ gmul (timesX a) (b >>> 1) :=
  calc gmul a b
    _ = gmul a ((if b.toNat % 2 = 1 then (1 : Symbol) else 0) ^^^ timesX (b >>> 1)) := by rw [← eq_constant_xor_timesX]
    _ = gmul a (if b.toNat % 2 = 1 then (1 : Symbol) else 0) ^^^ gmul a (timesX (b >>> 1)) := gmul_xor _ _ _
    _ = (if b.toNat % 2 = 1 then a else 0) ^^^ gmul a (timesX (b >>> 1)) := by rw [apply_ite (gmul a), gmul_one, gmul_zero]
    _ = (if b.toNat % 2 = 1 then a else 0) ^^^ gmul (timesX a) (b >>> 1) := by
      rw [← two_gmul, ← gmul_assoc, gmul_comm a 2, two_gmul]

/-- The loop adds the product to what it has collected, once it has gone through the bits of `b`. -/
theorem gmulPolyFrom_toNat (n : Nat) (r a b : Symbol) (hb : b.toNat < 2 ^ n) :
    gmulPolyFrom n r.toNat a.toNat b.toNat = (r ^^^ gmul a b).toNat := by
  induction n generalizing r a b with
  | zero =>
    obtain rfl : b = 0 := BitVec.eq_of_toNat_eq (Nat.lt_one_iff.mp hb)
    rw [gmul_zero, gmulPolyFrom]
    exact congrArg BitVec.toNat BitVec.xor_zero.symm
  | succ n ih =>
    have hhalf : (b >>> 1).toNat = b.toNat / 2 := BitVec.toNat_ushiftRight b 1
    have hcollect : (if b.toNat % 2 = 1 then r.toNat ^^^ a.toNat else r.toNat) =
        (r ^^^ (if b.toNat % 2 = 1 then a else 0)).toNat := by
      split
      · exact (BitVec.toNat_xor r a).symm
      · exact congrArg BitVec.toNat BitVec.xor_zero.symm
    rw [gmulPolyFrom, hcollect, ← timesX_toNat, ← hhalf, ih _ _ _ (by omega), BitVec.xor_assoc, ← gmul_eq_lowBit_xor]

theorem gmulPoly_eq_gmul (a b : Symbol) : gmulPoly a b = gmul a b := by
  have hloop : gmulPolyFrom 5 0 a.toNat b.toNat = (gmul a b).toNat :=
    (gmulPolyFrom_toNat 5 0 a b b.isLt).trans (congrArg BitVec.toNat BitVec.zero_xor)
  rw [gmulPoly, hloop, BitVec.ofNat_toNat, BitVec.setWidth_eq]

end Sys2Proof.Machine

/-! ## The statements on the multiplier -/

namespace Sys2Proof.Proofs
open Sys2Proof.Machine

/-- Settles O32: the laws by logarithms, and distributivity by the linearity of the product by `x`. -/
theorem fieldLawsHold : Obligations.FieldLawsHold :=
  ⟨gmul_comm, gmul_assoc, gmul_one, gmul_zero, gmul_xor, fun _ _ => eq_zero_or_eq_zero_of_gmul_eq_zero,
    fun _ ha => ⟨_, gmul_expAt_neg_logOf ha⟩⟩

/-- Settles O30: the word is the command's own word (O15), and `gmul` is the lookup of R180. -/
theorem gfmulMultipliesByTheTables : Obligations.GfmulMultipliesByTheTables := by
  intro a b s
  have hword : BitVec.ofNat 16 (0x5000 + 32 * a.toNat + b.toNat) = encode (.gfmul a b) := by
    rw [← encode_gfmul_toNat, BitVec.ofNat_toNat, BitVec.setWidth_eq]
  have hexec : exec (.gfmul a b) s = .next (endWith .ok { s with gp := gmul a b }) := rfl
  exact ⟨hword ▸ decode_encode (.gfmul a b), hexec⟩

/-- Settles O31: the loop of R181 is shift and add, which the associative and distributive laws (O32) justify. -/
theorem tableProductIsPolynomialProduct : Obligations.TableProductIsPolynomialProduct :=
  fun a b => (gmulPoly_eq_gmul a b).symm

end Sys2Proof.Proofs

/-! ## Sums in GF(32)

The field's sum is the exclusive or (R182), so a loop that collects terms by it leaves their sum. -/

namespace Sys2Proof.Machine

/-! BitVec's laws in the model's spelling: the library's zero is `0#5`, which `rw` does not find in `(0 : Symbol)`. -/

theorem symbol_xor_zero (a : Symbol) : a ^^^ 0 = a := BitVec.xor_zero

theorem symbol_zero_xor (a : Symbol) : 0 ^^^ a = a := BitVec.zero_xor

theorem symbol_xor_self (a : Symbol) : a ^^^ a = 0 := BitVec.xor_self

/-- The sum of the terms `f k` over the list. -/
def xorSum {α : Type} (f : α → Symbol) : List α → Symbol
  | [] => 0
  | k :: ks => f k ^^^ xorSum f ks

variable {α β : Type}

theorem foldl_xor_eq (f : α → Symbol) (l : List α) (t : Symbol) : l.foldl (fun t k => t ^^^ f k) t = t ^^^ xorSum f l := by
  induction l generalizing t with
  | nil => exact (symbol_xor_zero t).symm
  | cons k ks ih => rw [List.foldl_cons, ih, BitVec.xor_assoc, xorSum]

theorem foldl_xor_zero_eq (f : α → Symbol) (l : List α) : l.foldl (fun t k => t ^^^ f k) 0 = xorSum f l :=
  (foldl_xor_eq f l 0).trans (symbol_zero_xor _)

theorem xorSum_congr {f g : α → Symbol} {l : List α} (h : ∀ k ∈ l, f k = g k) : xorSum f l = xorSum g l := by
  induction l with
  | nil => rfl
  | cons k ks ih => rw [xorSum, xorSum, h k List.mem_cons_self, ih fun j hj => h j (List.mem_cons_of_mem k hj)]

theorem xorSum_eq_zero {f : α → Symbol} {l : List α} (h : ∀ k ∈ l, f k = 0) : xorSum f l = 0 := by
  induction l with
  | nil => rfl
  | cons k ks ih =>
    rw [xorSum, h k List.mem_cons_self, ih fun j hj => h j (List.mem_cons_of_mem k hj), symbol_xor_zero]

theorem xorSum_xor (f g : α → Symbol) (l : List α) : xorSum (fun k => f k ^^^ g k) l = xorSum f l ^^^ xorSum g l := by
  induction l with
  | nil => exact (symbol_xor_zero 0).symm
  | cons k ks ih => rw [xorSum, ih, xorSum, xorSum]; ac_rfl

/-- The distributive law (R182 (e)) for a sum of any length. -/
theorem gmul_xorSum (a : Symbol) (f : α → Symbol) (l : List α) : gmul a (xorSum f l) = xorSum (fun k => gmul a (f k)) l := by
  induction l with
  | nil => exact gmul_zero a
  | cons k ks ih => rw [xorSum, gmul_xor, ih, xorSum]

theorem xorSum_append (f : α → Symbol) (l m : List α) : xorSum f (l ++ m) = xorSum f l ^^^ xorSum f m := by
  induction l with
  | nil => exact (symbol_zero_xor _).symm
  | cons k ks ih => rw [List.cons_append, xorSum, ih, xorSum, BitVec.xor_assoc]

theorem xorSum_map (f : β → Symbol) (g : α → β) (l : List α) : xorSum f (l.map g) = xorSum (fun k => f (g k)) l := by
  induction l with
  | nil => rfl
  | cons k ks ih => rw [List.map_cons, xorSum, ih, xorSum]

/-- Terms that are zero can be left out. -/
theorem xorSum_filter {f : α → Symbol} {p : α → Bool} (l : List α) (h : ∀ k, p k = false → f k = 0) :
    xorSum f (l.filter p) = xorSum f l := by
  induction l with
  | nil => rfl
  | cons k ks ih =>
    cases hp : p k with
    | true => rw [List.filter_cons_of_pos hp, xorSum, ih, xorSum]
    | false => rw [List.filter_cons_of_neg (by simp [hp]), ih, xorSum, h k hp, symbol_zero_xor]

theorem xor_gmul (a b c : Symbol) : gmul (a ^^^ b) c = gmul a c ^^^ gmul b c := by
  rw [gmul_comm, gmul_xor, gmul_comm c a, gmul_comm c b]

end Sys2Proof.Machine

/-! ## The distance of the code (R216)

The syndromes of a difference of codewords are sums of powers of the changed places' points, each weighted by the change there. As
many such sums as there are points determine the weights: the elimination of the Vandermonde system, one point at a time. -/

namespace Sys2Proof.Machine

/-- The sum of the `i`-th powers of the points `EXP[pos k]`, the point of `k` weighted by `e k`. -/
def powerSum {α : Type} (pos : α → Nat) (e : α → Symbol) (l : List α) (i : Nat) : Symbol :=
  xorSum (fun k => gmul (e k) (expAt (i * pos k))) l

variable {α : Type}

theorem powerSum_xor (pos : α → Nat) (e e' : α → Symbol) (l : List α) (i : Nat) :
    powerSum pos (fun k => e k ^^^ e' k) l i = powerSum pos e l i ^^^ powerSum pos e' l i := by
  simp only [powerSum, xor_gmul, xorSum_xor]

theorem powerSum_filter (pos : α → Nat) {e : α → Symbol} {p : α → Bool} (l : List α) (h : ∀ k, p k = false → e k = 0)
    (i : Nat) : powerSum pos e (l.filter p) i = powerSum pos e l i :=
  xorSum_filter l fun k hk => by rw [h k hk, zero_gmul]

/-- Weights multiplied by the distance to a point `x`, which takes a point at `x` out of the sum. -/
theorem powerSum_eliminate (pos : α → Nat) (e : α → Symbol) (x : Symbol) (l : List α) (i : Nat) :
    powerSum pos (fun k => gmul (e k) (expAt (pos k) ^^^ x)) l i =
      powerSum pos e l (i + 1) ^^^ gmul x (powerSum pos e l i) := by
  rw [powerSum, powerSum, powerSum, gmul_xorSum, ← xorSum_xor]
  refine xorSum_congr fun k _ => ?_
  rw [gmul_xor, xor_gmul, gmul_assoc, gmul_expAt, Nat.add_comm, ← Nat.succ_mul, gmul_comm (e k) x, gmul_assoc]

/-- Weights at different points whose sums of first, second, ... powers vanish, as many sums as points, are all zero. -/
theorem eq_zero_of_powerSums_eq_zero {pos : α → Nat} {l : List α}
    (hne : l.Pairwise fun j k => expAt (pos j) ≠ expAt (pos k)) (e : α → Symbol)
    (h : ∀ i < l.length, powerSum pos e l (i + 1) = 0) : ∀ k ∈ l, e k = 0 := by
  induction l generalizing e with
  | nil => nofun
  | cons j ks ih =>
    obtain ⟨hj, hks⟩ := List.pairwise_cons.mp hne
    have helim : ∀ k ∈ ks, gmul (e k) (expAt (pos k) ^^^ expAt (pos j)) = 0 := by
      refine ih hks (fun k => gmul (e k) (expAt (pos k) ^^^ expAt (pos j))) fun i hi => ?_
      calc powerSum pos (fun k => gmul (e k) (expAt (pos k) ^^^ expAt (pos j))) ks (i + 1)
        _ = powerSum pos (fun k => gmul (e k) (expAt (pos k) ^^^ expAt (pos j))) (j :: ks) (i + 1) := by
          rw [powerSum, powerSum, xorSum, symbol_xor_self, gmul_zero, zero_gmul, symbol_zero_xor]
        _ = powerSum pos e (j :: ks) (i + 2) ^^^ gmul (expAt (pos j)) (powerSum pos e (j :: ks) (i + 1)) :=
          powerSum_eliminate pos e _ _ _
        _ = 0 := by
          rw [h (i + 1) (Nat.succ_lt_succ hi), h i (hi.trans (Nat.lt_succ_self _)), gmul_zero, symbol_xor_zero]
    have htail : ∀ k ∈ ks, e k = 0 := fun k hk =>
      (eq_zero_or_eq_zero_of_gmul_eq_zero (helim k hk)).resolve_right fun heq => hj k hk (BitVec.xor_eq_zero_iff.mp heq).symm
    have hhead : e j = 0 := by
      have hsum := h 0 (Nat.succ_pos _)
      rw [powerSum, xorSum, xorSum_eq_zero fun k hk => by rw [htail k hk, zero_gmul], symbol_xor_zero] at hsum
      exact (eq_zero_or_eq_zero_of_gmul_eq_zero hsum).resolve_right (expAt_ne_zero _)
    exact List.forall_mem_cons.mpr ⟨hhead, htail⟩

/-- The points of the 17 places are different powers of the primitive element (R214). -/
theorem expAt_positionOf_ne {j k : Fin 17} (h : j ≠ k) : expAt (positionOf j.val) ≠ expAt (positionOf k.val) := by
  intro heq
  have hlog := congrArg logOf heq
  rw [logOf_expAt, logOf_expAt] at hlog
  simp only [positionOf] at hlog
  split at hlog <;> split at hlog <;> omega

theorem syndrome_eq_powerSum (cw : Vector Symbol 17) (i : Nat) :
    syndrome cw i = powerSum (fun k : Fin 17 => positionOf k.val) (fun k => cw[k.val]) (List.finRange 17) i :=
  foldl_xor_zero_eq _ _

theorem syndromesZero_iff_syndrome (cw : Vector Symbol 17) :
    syndromesZero (syndromes cw) = true ↔ ∀ i < 4, syndrome cw (i + 1) = 0 := by
  rw [syndromesZero_iff]
  constructor
  · rintro ⟨h0, h1, h2, h3⟩ i hi
    match i, hi with
    | 0, _ => exact h0
    | 1, _ => exact h1
    | 2, _ => exact h2
    | 3, _ => exact h3
  · exact fun h => ⟨h 0 (by decide), h 1 (by decide), h 2 (by decide), h 3 (by decide)⟩

theorem placesChanged_self (cw : Vector Symbol 17) : placesChanged cw cw = 0 := by simp [placesChanged]

/-- R216: two valid codewords that differ in at most four places are the same. -/
theorem eq_of_valid_of_placesChanged_le_four {cw cw' : Vector Symbol 17} (h : syndromesZero (syndromes cw) = true)
    (h' : syndromesZero (syndromes cw') = true) (hle : placesChanged cw cw' ≤ 4) : cw = cw' := by
  have hlen : ((List.finRange 17).filter fun k : Fin 17 => cw[k.val] != cw'[k.val]).length ≤ 4 := by
    rwa [← List.countP_eq_length_filter]
  have hsame (k : Fin 17) (hk : (cw[k.val] != cw'[k.val]) = false) : cw[k.val] ^^^ cw'[k.val] = 0 :=
    BitVec.xor_eq_zero_iff.mpr (bne_eq_false_iff_eq.mp hk)
  have hchanged := eq_zero_of_powerSums_eq_zero (((List.nodup_finRange 17).imp expAt_positionOf_ne).filter _)
    (fun k => cw[k.val] ^^^ cw'[k.val]) fun i hi => by
      rw [powerSum_filter _ _ hsame, powerSum_xor, ← syndrome_eq_powerSum, ← syndrome_eq_powerSum,
        (syndromesZero_iff_syndrome cw).mp h i (by omega), (syndromesZero_iff_syndrome cw').mp h' i (by omega), symbol_xor_zero]
  ext1 n hn
  by_contra hne
  have hmem : (⟨n, hn⟩ : Fin 17) ∈ (List.finRange 17).filter fun k : Fin 17 => cw[k.val] != cw'[k.val] := by
    simpa using hne
  exact hne (BitVec.xor_eq_zero_iff.mp (hchanged _ hmem))

/-- R216: one to four changed symbols leave a syndrome that is not zero. -/
theorem syndromesZero_eq_false_of_placesChanged {cw cw' : Vector Symbol 17} (h : syndromesZero (syndromes cw) = true)
    (hpos : 1 ≤ placesChanged cw cw') (hle : placesChanged cw cw' ≤ 4) : syndromesZero (syndromes cw') = false := by
  by_contra hvalid
  obtain rfl := eq_of_valid_of_placesChanged_le_four h (Bool.not_eq_false _ ▸ hvalid) hle
  rw [placesChanged_self] at hpos
  contradiction

end Sys2Proof.Machine

/-! ## The encoder as a division of polynomials (R204, R214, R215) -/

namespace Sys2Proof.Machine

/-- The value at `EXP[i]` of the polynomial with the coefficients `c`, the constant term first. -/
def polyAt (i : Nat) : List Symbol → Symbol
  | [] => 0
  | c :: cs => c ^^^ gmul (expAt i) (polyAt i cs)

/-- The generator constants are those of a polynomial with the roots `EXP[1]` to `EXP[4]` (R80 (e), R201). -/
theorem expAt_four_mul_eq_polyAt_gen :
    ∀ i < 4, expAt (4 * (i + 1)) = polyAt (i + 1) genTable.toList := by decide

theorem gmul_left_comm (a b c : Symbol) : gmul a (gmul b c) = gmul b (gmul a c) := by
  rw [← gmul_assoc, gmul_comm a b, gmul_assoc]

theorem toList_eq_four_cells (q : Vector Symbol 4) : q.toList = [q[0], q[1], q[2], q[3]] := by
  refine List.ext_getElem (by simp) fun k hk _ => ?_
  obtain rfl | rfl | rfl | rfl : k = 0 ∨ k = 1 ∨ k = 2 ∨ k = 3 := by simp at hk; omega
  all_goals rfl

/-- A step multiplies the remainder by `x` and adds the data symbol at degree 4, modulo the generator: at a root of the generator,
the degree 4 is what the constants make of it (R204). -/
theorem polyAt_lfsrStep {i : Nat} (hroot : expAt (4 * i) = polyAt i genTable.toList) (d : Symbol) (q : Vector Symbol 4) :
    polyAt i (lfsrStep d q).toList = gmul (expAt (4 * i)) d ^^^ gmul (expAt i) (polyAt i q.toList) := by
  have htop : gmul (expAt i) (gmul (expAt i) (gmul (expAt i) (gmul (expAt i) q[3]))) = gmul (expAt (4 * i)) q[3] := by
    simp only [← gmul_assoc, gmul_expAt]
    congr 2; omega
  have hgen (fb : Symbol) : polyAt i [gmul genTable[0] fb, gmul genTable[1] fb, gmul genTable[2] fb, gmul genTable[3] fb] =
      gmul (expAt (4 * i)) fb := by
    simp only [hroot, toList_eq_four_cells, polyAt, xor_gmul, gmul_assoc, zero_gmul]
  calc polyAt i (lfsrStep d q).toList
    _ = polyAt i [gmul genTable[0] (d ^^^ q[3]), q[0] ^^^ gmul genTable[1] (d ^^^ q[3]), q[1] ^^^ gmul genTable[2] (d ^^^ q[3]),
          q[2] ^^^ gmul genTable[3] (d ^^^ q[3])] := rfl
    _ = gmul (expAt (4 * i)) (d ^^^ q[3]) ^^^ gmul (expAt i) (polyAt i [q[0], q[1], q[2]]) := by
      rw [← hgen]
      generalize d ^^^ q[3] = fb
      simp only [polyAt, gmul_xor, gmul_zero, symbol_xor_zero]
      ac_rfl
    _ = gmul (expAt (4 * i)) d ^^^ gmul (expAt i) (polyAt i q.toList) := by
      rw [toList_eq_four_cells]
      simp only [polyAt, gmul_xor, gmul_zero, symbol_xor_zero, htop]
      ac_rfl

theorem rsenc_cons (d : Symbol) (ds : List Symbol) : rsenc (d :: ds) = lfsrStep d (rsenc ds) := rfl

/-- The parity is the remainder of `x^4` times the data polynomial: the same value at the roots of the generator (R204). -/
theorem polyAt_rsenc {i : Nat} (hroot : expAt (4 * i) = polyAt i genTable.toList) (ds : List Symbol) :
    polyAt i (rsenc ds).toList = gmul (expAt (4 * i)) (polyAt i ds) := by
  induction ds with
  | nil =>
    have hzeros : polyAt i [0, 0, 0, 0] = 0 := by simp only [polyAt, gmul_zero, symbol_xor_zero]
    exact hzeros.trans (gmul_zero _).symm
  | cons d ds ih =>
    rw [rsenc_cons, polyAt_lfsrStep hroot, ih, polyAt, gmul_xor, gmul_left_comm]

/-- The terms of a polynomial whose constant term stands at position `n`. -/
theorem xorSum_zipIdx (i n : Nat) (cs : List Symbol) :
    xorSum (fun c => gmul c.1 (expAt (i * c.2))) (cs.zipIdx n) = gmul (expAt (i * n)) (polyAt i cs) := by
  induction cs generalizing n with
  | nil => exact (gmul_zero _).symm
  | cons c cs ih =>
    rw [List.zipIdx_cons, xorSum, ih, polyAt, gmul_xor, ← gmul_assoc, gmul_expAt, gmul_comm c, Nat.mul_succ]

/-- The 17 symbols at their positions: the data from 0 on, the parity from 27 on (R213, R214). -/
theorem symbols_at_positions (cw : Vector Symbol 17) :
    (List.finRange 17).map (fun k : Fin 17 => (cw[k.val], positionOf k.val)) =
      (cw.toList.take 13).zipIdx ++ (cw.toList.drop 13).zipIdx 27 := by
  refine List.ext_getElem (by simp) fun k hk _ => ?_
  have hk : k < 17 := by simpa using hk
  by_cases h : k < 13
  · simp [h, positionOf]; omega
  · have hadd : 13 + (k - 13) = k := by omega
    simp [List.getElem_append, h, positionOf, hadd, show ¬ k ≤ 12 by omega]; omega

/-- A syndrome is the value of the codeword's polynomial at a power of the primitive element (R214). -/
theorem syndrome_eq_polyAt (cw : Vector Symbol 17) (i : Nat) :
    syndrome cw i = polyAt i (cw.toList.take 13) ^^^ gmul (expAt (i * 27)) (polyAt i (cw.toList.drop 13)) :=
  calc syndrome cw i
    _ = xorSum (fun c => gmul c.1 (expAt (i * c.2)))
          ((List.finRange 17).map fun k : Fin 17 => (cw[k.val], positionOf k.val)) := by
      rw [syndrome_eq_powerSum, powerSum, xorSum_map]
    _ = _ := by
      rw [symbols_at_positions, xorSum_append, xorSum_zipIdx, xorSum_zipIdx, Nat.mul_zero, expAt_zero, one_gmul]

theorem putParity_take (q : Vector Symbol 4) (cw : Vector Symbol 17) : (putParity q cw).toList.take 13 = cw.toList.take 13 := by
  refine List.ext_getElem (by simp) fun k hk _ => ?_
  have hk : k < 13 := by simpa using hk
  simp [show ¬ 13 ≤ k by omega]

theorem putParity_drop (q : Vector Symbol 4) (cw : Vector Symbol 17) : (putParity q cw).toList.drop 13 = q.toList :=
  List.ext_getElem (by simp) fun k _ _ => by simp

/-- R215: with the parity appended, the codeword's polynomial vanishes at the roots of the generator. -/
theorem syndrome_putParity_rsenc {i : Nat} (hroot : expAt (4 * i) = polyAt i genTable.toList) (cw : Vector Symbol 17) :
    syndrome (putParity (rsenc (cw.toList.take 13)) cw) i = 0 := by
  have hperiod : expAt (4 * i + i * 27) = 1 := by
    rw [show 4 * i + i * 27 = i * 31 by omega, ← expAt_mod, Nat.mul_mod_left, expAt_zero]
  have hmul : gmul (expAt (4 * i)) (syndrome (putParity (rsenc (cw.toList.take 13)) cw) i) = 0 := by
    rw [syndrome_eq_polyAt, putParity_take, putParity_drop, gmul_xor, ← polyAt_rsenc hroot, ← gmul_assoc, gmul_expAt, hperiod,
      one_gmul, symbol_xor_self]
  exact (eq_zero_or_eq_zero_of_gmul_eq_zero hmul).resolve_left (expAt_ne_zero _)

theorem syndromes_putParity_rsenc (s : State) : syndromesZero (syndromes (putParity (rsenc (dataSymbols s)) s.cw)) = true :=
  (syndromesZero_iff_syndrome _).mpr fun i hi => syndrome_putParity_rsenc (expAt_four_mul_eq_polyAt_gen i hi) s.cw

theorem placesChanged_putParity_le (q : Vector Symbol 4) (cw : Vector Symbol 17) : placesChanged (putParity q cw) cw ≤ 4 :=
  calc placesChanged (putParity q cw) cw
    _ ≤ (List.finRange 17).countP fun k => decide (13 ≤ k.val) := by
      refine List.countP_mono_left fun k _ hk => ?_
      by_contra hlt
      simp [show ¬ 13 ≤ k.val by simpa using hlt] at hk
    _ = 4 := by decide

end Sys2Proof.Machine

/-! ## The parity as a linear combination (R206) -/

namespace Sys2Proof.Machine

/-- R206's column of the data symbol `k`: the constants, which feeding a 1 leaves, and `k` steps without data after it. -/
def parityColumn (k : Nat) : Vector Symbol 4 := (lfsrStep 0)^[k] genTable

theorem unitParity_eq_parityColumn : ∀ k : Fin 13, unitParity[k.val] = parityColumn k.val := by decide

theorem symbol_xor_left_comm (a b c : Symbol) : a ^^^ (b ^^^ c) = b ^^^ (a ^^^ c) := by ac_rfl

/-- The sum of two parities, cell by cell. -/
def xorCells (q r : Vector Symbol 4) : Vector Symbol 4 := #v[q[0] ^^^ r[0], q[1] ^^^ r[1], q[2] ^^^ r[2], q[3] ^^^ r[3]]

/-- The multiple of a parity, cell by cell. -/
def scaleCells (d : Symbol) (q : Vector Symbol 4) : Vector Symbol 4 := #v[gmul d q[0], gmul d q[1], gmul d q[2], gmul d q[3]]

theorem xorCells_getElem (q r : Vector Symbol 4) : ∀ m : Fin 4, (xorCells q r)[m.val] = q[m.val] ^^^ r[m.val]
  | 0 | 1 | 2 | 3 => rfl

theorem scaleCells_getElem (d : Symbol) (q : Vector Symbol 4) : ∀ m : Fin 4, (scaleCells d q)[m.val] = gmul d q[m.val]
  | 0 | 1 | 2 | 3 => rfl

/-- A step adds the data symbol's multiple of the constants to a step without data (R201). -/
theorem lfsrStep_eq_xorCells (d : Symbol) (q : Vector Symbol 4) :
    lfsrStep d q = xorCells (scaleCells d genTable) (lfsrStep 0 q) := by
  simp [lfsrStep, xorCells, scaleCells, gmul_xor, gmul_comm d, symbol_xor_left_comm]

theorem lfsrStep_zero_xorCells (q r : Vector Symbol 4) :
    lfsrStep 0 (xorCells q r) = xorCells (lfsrStep 0 q) (lfsrStep 0 r) := by
  simp [lfsrStep, xorCells, gmul_xor, BitVec.xor_assoc, symbol_xor_left_comm]

theorem lfsrStep_zero_scaleCells (d : Symbol) (q : Vector Symbol 4) :
    lfsrStep 0 (scaleCells d q) = scaleCells d (lfsrStep 0 q) := by
  simp [lfsrStep, scaleCells, gmul_xor, gmul_left_comm d]

theorem iterate_lfsrStep_zero_xorCells (n : Nat) (q r : Vector Symbol 4) :
    (lfsrStep 0)^[n] (xorCells q r) = xorCells ((lfsrStep 0)^[n] q) ((lfsrStep 0)^[n] r) := by
  induction n generalizing q r with
  | zero => rfl
  | succ n ih => simp only [Function.iterate_succ_apply, lfsrStep_zero_xorCells, ih]

theorem iterate_lfsrStep_zero_scaleCells (n : Nat) (d : Symbol) (q : Vector Symbol 4) :
    (lfsrStep 0)^[n] (scaleCells d q) = scaleCells d ((lfsrStep 0)^[n] q) :=
  Function.Commute.iterate_left (lfsrStep_zero_scaleCells d) n q

/-- What `n` steps without data make of a parity is a combination of columns, that of the `k`-th data symbol being `n + k`. -/
theorem iterate_rsenc_getElem (n : Nat) (ds : List Symbol) (m : Fin 4) :
    ((lfsrStep 0)^[n] (rsenc ds))[m.val] = xorSum (fun c => gmul c.1 (parityColumn c.2)[m.val]) (ds.zipIdx n) := by
  induction ds generalizing n with
  | nil =>
    have hzeros : (lfsrStep 0)^[n] (rsenc []) = Vector.replicate 4 0 := Function.iterate_fixed (by decide) n
    rw [hzeros, Vector.getElem_replicate]; rfl
  | cons d ds ih =>
    have hstep : (lfsrStep 0)^[n] (rsenc (d :: ds)) =
        xorCells (scaleCells d (parityColumn n)) ((lfsrStep 0)^[n + 1] (rsenc ds)) := by
      rw [rsenc_cons, lfsrStep_eq_xorCells, iterate_lfsrStep_zero_xorCells, iterate_lfsrStep_zero_scaleCells,
        Function.iterate_succ_apply, parityColumn]
    rw [hstep, xorCells_getElem, scaleCells_getElem, ih, List.zipIdx_cons, xorSum]

theorem dataSymbols_zipIdx (s : State) :
    (dataSymbols s).zipIdx = (List.finRange 13).map fun k : Fin 13 => (s.cw[k.val], k.val) :=
  List.ext_getElem (by simp [dataSymbols]) fun k _ _ => by simp [dataSymbols]

/-- R206: the parity is the combination of the table's columns by the data symbols. -/
theorem rsenc_dataSymbols_getElem (s : State) (m : Fin 4) :
    (rsenc (dataSymbols s))[m.val] =
      (List.finRange 13).foldl (fun x k => x ^^^ gmul s.cw[k.val] ((unitParity[k.val])[m.val])) 0 :=
  calc (rsenc (dataSymbols s))[m.val]
    _ = xorSum (fun c => gmul c.1 (parityColumn c.2)[m.val]) (dataSymbols s).zipIdx := iterate_rsenc_getElem 0 _ m
    _ = xorSum (fun k : Fin 13 => gmul s.cw[k.val] (parityColumn k.val)[m.val]) (List.finRange 13) := by
      rw [dataSymbols_zipIdx, xorSum_map]
    _ = xorSum (fun k : Fin 13 => gmul s.cw[k.val] ((unitParity[k.val])[m.val])) (List.finRange 13) :=
      xorSum_congr fun k _ => by rw [unitParity_eq_parityColumn]
    _ = _ := (foldl_xor_zero_eq _ _).symm

theorem execRsenc_eq (s : State) : exec .rsenc s = .next (endWith .ok { s with
    p := rsenc (dataSymbols s), cw := putParity (rsenc (dataSymbols s)) s.cw }) := rfl

end Sys2Proof.Machine

/-! ## Parsing a canonical text (R116, R231, R245) -/

namespace Sys2Proof.Machine

theorem aidx_alphaTable : ∀ v : Symbol, aidx (alphaTable[v.toNat]'v.isLt) = some v := by decide

theorem aidx_dashByte : aidx dashByte = none := by decide

/-- Every place of the canonical form determines its byte, so a codeword has one canonical text. -/
theorem eq_textOf_of_isTextOf {text : Vector TextByte 26} {cw : Vector Symbol 17} (h : IsTextOf text cw) : text = textOf cw := by
  obtain ⟨h0, h1, h2, h3, h4, h5, hchars, hdash10, hdash15, hdash20⟩ := h
  ext1 n hn
  rw [textOf_getElem, textByteAt]
  split
  next hsix =>
    change n < 6 at hsix
    interval_cases n <;> assumption
  next hsix =>
    split
    next hdash =>
      obtain rfl | rfl | rfl : n = 10 ∨ n = 15 ∨ n = 20 := hdash
      all_goals assumption
    next hdash =>
      have hpos : tpos ⟨n - 6 - min ((n - 6) / 5) 3, by omega⟩ = ⟨n, hn⟩ := by
        simp only [tpos, Fin.mk.injEq] at hsix hdash ⊢
        omega
      exact (congrArg (fun k : Fin 26 => text[k]) hpos).symm.trans (hchars _)

/-- The character shown at the `n`-th byte after `BURST-`, none at a dash (R116). -/
def shownAt (n : Fin 20) : Option (Fin 17) :=
  if 6 + n.val = 10 ∨ 6 + n.val = 15 ∨ 6 + n.val = 20 then none
  else some ⟨6 + n.val - 6 - min ((6 + n.val - 6) / 5) 3, by omega⟩

theorem filterMap_shownAt : (List.finRange 20).filterMap shownAt = List.finRange 17 := by decide

theorem aidx_textByteAt (cw : Vector Symbol 17) (n : Fin 20) :
    aidx (textByteAt cw ⟨6 + n.val, by omega⟩) = (shownAt n).map fun i => cw[mapTable[i]] := by
  rw [textByteAt, dif_neg (by simp), shownAt]
  split
  next => exact aidx_dashByte
  next => exact aidx_alphaTable _

theorem textOf_take_six (cw : Vector Symbol 17) : (textOf cw).toList.take 6 = prefixTable.toList := by
  refine List.ext_getElem (by simp) fun k hk _ => ?_
  have hk : k < 6 := by simpa using hk
  simp [textByteAt, hk]

theorem stripPrefix_textOf (cw : Vector Symbol 17) :
    stripPrefix (textOf cw).toList = (List.finRange 20).map fun n : Fin 20 => textByteAt cw ⟨6 + n.val, by omega⟩ := by
  rw [stripPrefix, if_pos (textOf_take_six cw)]
  exact List.ext_getElem (by simp) fun k _ _ => by simp

/-- The parse of a canonical text accepts the symbols in the order in which they are shown. -/
theorem acceptedSymbols_textOf (cw : Vector Symbol 17) :
    acceptedSymbols (textOf cw).toList = (List.finRange 17).map fun i : Fin 17 => cw[mapTable[i]] :=
  calc acceptedSymbols (textOf cw).toList
    _ = (stripPrefix (textOf cw).toList).filterMap aidx := rfl
    _ = (List.finRange 20).filterMap fun n => (shownAt n).map fun i => cw[mapTable[i]] := by
      rw [stripPrefix_textOf, List.filterMap_map]
      exact congrArg (fun f => List.filterMap f _) (funext (aidx_textByteAt cw))
    _ = _ := by rw [← List.map_filterMap, filterMap_shownAt]

theorem mapTable_surj : ∀ k : Fin 17, ∃ n : Fin 17, mapTable[n] = k := by decide

theorem isPlacement_shown (cw : Vector Symbol 17) :
    IsPlacement ((List.finRange 17).map fun i : Fin 17 => cw[mapTable[i]]) cw := fun n => by simp

/-- The cells the scan fills from a clear codeword are those of the placement. -/
theorem placeFrom_eq_of_isPlacement {syms : List Symbol} {cw : Vector Symbol 17} (h : IsPlacement syms cw) :
    placeFrom syms 0 (Vector.replicate 17 0) = cw := by
  have hcell (k : Fin 17) : (placeFrom syms 0 (Vector.replicate 17 0))[k] = cw[k] := by
    obtain ⟨n, rfl⟩ := mapTable_surj k
    rw [placeFrom_getElem, if_pos (Nat.zero_le _), h n]
    simp
  exact Vector.ext fun k hk => hcell ⟨k, hk⟩

/-- R246: the step of `PARSE` where exactly 17 symbols are accepted that are no valid codeword. -/
theorem unitParse_of_not_valid {s : State} {cw : Vector Symbol 17} (htin : s.tinlen.toNat ≤ Config.tinCap)
    (hlen : (acceptedSymbols s.inputString).length = 17) (hcw : IsPlacement (acceptedSymbols s.inputString) cw)
    (hvalid : syndromesZero (syndromes cw) = false) :
    unitParse s = .raised .codewordInvalid { s with cw := cw, clen := 17, syn := syndromes cw, valid := false } := by
  have hplace : placeFrom ((stripPrefix s.inputString).filterMap aidx) 0 (Vector.replicate 17 0) = cw :=
    placeFrom_eq_of_isPlacement hcw
  have hlen : ((stripPrefix s.inputString).filterMap aidx).length = 17 := hlen
  have hcases := parseBytes_cases s.inputString s
  simp only [hplace, hvalid] at hcases
  obtain ⟨hlong, -⟩ | ⟨hshort, -⟩ | ⟨-, hfalse, -⟩ | ⟨-, -, hparse⟩ := hcases
  · omega
  · omega
  · contradiction
  · exact (unitParse_of_le htin).trans hparse

theorem inputString_of_text {s : State} {text : Vector TextByte 26} (h : ∀ k : Fin 26, s.tin[k.val] = text[k.val])
    (hlen : s.tinlen = 26) : s.inputString = text.toList := by
  rw [State.inputString, hlen]
  refine List.ext_getElem (by simp) fun k _ hk => ?_
  have hk : k < 26 := by simpa using hk
  simpa using h ⟨k, hk⟩

/-- R260, R264: a `DECODE` whose `PARSE` raises ends there. -/
theorem execDecode_of_raised {s t : State} {o : CmdOutcome} (h : unitParse s = .raised o t) :
    exec .decode s = .next (endWith o t) := by
  have hexec : exec .decode s = (((unitParse s).andThen unitR32t10).andThen unitDacc).finish := rfl
  rw [hexec, h]; rfl

end Sys2Proof.Machine

/-! ## The statements on the Reed-Solomon codec -/

namespace Sys2Proof.Proofs
open Sys2Proof.Machine

/-- Settles O34: the register is linear, so its parity is the combination of its columns. -/
theorem rsencAppendsTheParity : Obligations.RsencAppendsTheParity := by
  refine ⟨decode_encode .rsenc, fun s => ⟨_, execRsenc_eq s, rfl, fun k => ?_, fun m => ?_, rsenc_dataSymbols_getElem s⟩⟩
  · simp [Nat.not_le.mpr k.isLt]
  · simp

/-- Settles O36: the parity is the remainder by the generator, whose roots are the validator's points. -/
theorem encodedCodewordIsValid : Obligations.EncodedCodewordIsValid := fun s =>
  ⟨_, _, execRsenc_eq s, execRschk_eq _, syndromes_putParity_rsenc s,
    (syndromesZero_iff_eq_zero _).mp (syndromes_putParity_rsenc s)⟩

/-- Settles O37: the encoded codeword is valid (O36), and differs from any other with its data in at most four places (O38). -/
theorem validExactlyWhenTheParityFits : Obligations.ValidExactlyWhenTheParityFits := by
  refine fun s => ⟨_, _, execRsenc_eq s, execRschk_eq s, fun hvalid => ?_, fun hcw => ?_⟩
  · exact eq_of_valid_of_placesChanged_le_four (syndromes_putParity_rsenc s) hvalid (placesChanged_putParity_le _ _)
  · have hvalid := syndromes_putParity_rsenc s
    have hcw : putParity (rsenc (dataSymbols s)) s.cw = s.cw := hcw
    rwa [hcw] at hvalid

/-- Settles O38, by the distance of the code. -/
theorem upToFourChangedSymbolsAreDetected : Obligations.UpToFourChangedSymbolsAreDetected := by
  intro s u cw' hu hvalid hpos hle
  cases (execRschk_eq s).symm.trans hu
  exact ⟨_, execRschk_eq _, syndromesZero_eq_false_of_placesChanged hvalid hpos hle⟩

/-- Settles O54: the parse of the text places the symbols of the changed codeword, which is not valid (O38). -/
theorem substitutedAddressIsRejected : Obligations.SubstitutedAddressIsRejected := by
  intro s cw cw' text hvalid hpos hle htext htin hlen
  have haccepted : acceptedSymbols s.inputString = (List.finRange 17).map fun i : Fin 17 => cw'[mapTable[i]] := by
    rw [inputString_of_text htin hlen, eq_textOf_of_isTextOf htext, acceptedSymbols_textOf]
  have hparse := unitParse_of_not_valid (s := s) (cw := cw') (by rw [hlen]; decide)
    (by rw [haccepted, List.length_map, List.length_finRange]) (haccepted ▸ isPlacement_shown cw')
    (syndromesZero_eq_false_of_placesChanged ((validCodeword_iff cw).mp hvalid) hpos hle)
  rw [execDecode_of_raised hparse, loopSyndromes_eq]
  rfl

/-- Settles O33: the register's constants are looked up, and its fold is unrolled once. -/
theorem encoderIsTheShiftRegister : Obligations.EncoderIsTheShiftRegister :=
  ⟨fun _ _ => rfl, rfl, rsenc_cons⟩

/-- Settles O35: the double loop and the machine's weighted sums are the same. -/
theorem rschkComputesTheSyndromes : Obligations.RschkComputesTheSyndromes := by
  refine ⟨decode_encode .rschk, fun s => ?_⟩
  rw [execRschk_eq, loopSyndromes_eq]
  simp only [loopSyndrome_eq]
  rfl

end Sys2Proof.Proofs

/-! ## The canonical text of a codeword (R231 to R233) -/

namespace Sys2Proof.Machine

theorem execFmt_eq (s : State) : exec .fmt s = .next (endWith .ok { s with tout := textOf s.cw, toutlen := 26 }) := rfl

/-- The machine's text has each byte where the canonical form has it (R116, R231). -/
theorem isTextOf_textOf (cw : Vector Symbol 17) : IsTextOf (textOf cw) cw := by
  have hprefix (n : Nat) (hn : n < 6) : (textOf cw)[n] = prefixTable[n] := by
    rw [textOf_getElem, textByteAt, dif_pos hn]
  have hdash (n : Nat) (hn : n = 10 ∨ n = 15 ∨ n = 20) : (textOf cw)[n] = dashByte := by
    rw [textOf_getElem, textByteAt, dif_neg (by simp only; omega), if_pos hn]
  have hchar (i : Fin 17) : (textOf cw)[tpos i] = shownChar cw i :=
    (textOf_getElem cw _ _).trans (textByteAt_tpos cw i)
  exact ⟨hprefix 0 (by decide), hprefix 1 (by decide), hprefix 2 (by decide), hprefix 3 (by decide), hprefix 4 (by decide),
    hprefix 5 (by decide), hchar, hdash 10 (by decide), hdash 15 (by decide), hdash 20 (by decide)⟩

/-- R233: the codeword can be read off its text, as the placement of the symbols a parse accepts. -/
theorem textOf_injective : Function.Injective textOf := by
  intro cw cw' h
  have hplace (c : Vector Symbol 17) : placeFrom (acceptedSymbols (textOf c).toList) 0 (Vector.replicate 17 0) = c :=
    placeFrom_eq_of_isPlacement (acceptedSymbols_textOf c ▸ isPlacement_shown c)
  rw [← hplace cw, ← hplace cw', h]

end Sys2Proof.Machine

/-! ## What a parse leaves, by the symbols it accepts (R240, R243, R246) -/

namespace Sys2Proof.Machine

/-- R292: an 18th symbol ends the parse without a validation. -/
theorem finishScan_tooLong (cw : Vector Symbol 17) (s : State) :
    finishScan (.tooLong cw) s = .raised .codewordTooLong { s with cw := cw, clen := 17 } := rfl

/-- R293 (a): fewer than 17 symbols end the parse without a validation. -/
theorem finishScan_of_lt {cnt : Nat} (h : cnt < 17) (cw : Vector Symbol 17) (s : State) :
    finishScan (.ended cnt cw) s = .raised .codewordInvalid { s with cw := cw, clen := BitVec.ofNat 5 cnt } := if_pos h

/-- The end of a scan answers a next state, and carries the input string along unread. -/
theorem finishScan_finish_with_input (e : ScanEnd) (s : State) (tin : Vector TextByte 64) (tinlen : BitVec 7) :
    ∃ t : State, (finishScan e s).finish = .next t ∧
      (finishScan e { s with tin := tin, tinlen := tinlen }).finish = .next { t with tin := tin, tinlen := tinlen } := by
  cases e with
  | tooLong cw => exact ⟨_, rfl, rfl⟩
  | ended cnt cw =>
    simp only [finishScan]
    split
    next => exact ⟨_, rfl, rfl⟩
    next =>
      simp only [validateParse]
      split
      next => exact ⟨_, rfl, rfl⟩
      next => exact ⟨_, rfl, rfl⟩

/-- The step of `PARSE` sees of the input string only the symbols accepted in it (R240, R243). -/
theorem unitParse_eq_finishScan {s : State} (htin : s.tinlen.toNat ≤ Config.tinCap) :
    unitParse s =
      finishScan (scanSymbols (acceptedSymbols s.inputString) 0 (Vector.replicate 17 0)) (clearParse s) := by
  rw [acceptedSymbols_eq, ← scan_eq_scanSymbols]
  exact unitParse_of_le htin

/-- How the scan of the accepted symbols ends, by their number (R240). -/
theorem scanSymbols_of_isPlacement {syms : List Symbol} {cw : Vector Symbol 17} (hcw : IsPlacement syms cw) :
    scanSymbols syms 0 (Vector.replicate 17 0) = if syms.length ≤ 17 then .ended syms.length cw else .tooLong cw := by
  rw [scanSymbols_eq _ _ _ (Nat.zero_le _), Nat.zero_add, placeFrom_eq_of_isPlacement hcw]

section Outcome
variable {s : State} {cw : Vector Symbol 17} (htin : s.tinlen.toNat ≤ Config.tinCap)
  (hcw : IsPlacement (acceptedSymbols s.inputString) cw)
include htin hcw

/-- R292, R300: the step of `PARSE` where more than 17 symbols are accepted. -/
theorem unitParse_of_tooMany (hlen : 17 < (acceptedSymbols s.inputString).length) :
    unitParse s = .raised .codewordTooLong
      { s with cw := cw, clen := 17, syn := Vector.replicate 4 0, valid := false } := by
  rw [unitParse_eq_finishScan htin, scanSymbols_of_isPlacement hcw, if_neg (Nat.not_le.mpr hlen), finishScan_tooLong]; rfl

/-- R293 (a): the step of `PARSE` where fewer than 17 symbols are accepted. -/
theorem unitParse_of_tooFew (hlen : (acceptedSymbols s.inputString).length < 17) :
    unitParse s = .raised .codewordInvalid
      { s with
        cw := cw, clen := BitVec.ofNat 5 (acceptedSymbols s.inputString).length
        syn := Vector.replicate 4 0, valid := false } := by
  rw [unitParse_eq_finishScan htin, scanSymbols_of_isPlacement hcw, if_pos hlen.le, finishScan_of_lt hlen]; rfl

/-- R246: the step of `PARSE` where exactly 17 symbols are accepted that are a valid codeword. -/
theorem unitParse_of_valid (hlen : (acceptedSymbols s.inputString).length = 17) (hvalid : ValidCodeword cw) :
    unitParse s = .done { s with cw := cw, clen := 17, syn := Vector.replicate 4 0, valid := true } := by
  have hzero := (validCodeword_iff cw).mp hvalid
  rw [unitParse_eq_finishScan htin, scanSymbols_of_isPlacement hcw, hlen, if_pos le_rfl, finishScan_seventeen, if_pos hzero,
    (syndromesZero_iff_eq_zero _).mp hzero]
  rfl

end Outcome

/-- R243: a parse accepts the same symbols whether the foreign bytes are there or not. -/
theorem filterMap_aidx_filter (bytes : List TextByte) :
    (bytes.filter fun c => (aidx c).isSome).filterMap aidx = bytes.filterMap aidx := by
  induction bytes with
  | nil => rfl
  | cons b rest ih =>
    cases hb : aidx b with
    | none => rw [List.filter_cons_of_neg (by simp [hb]), List.filterMap_cons_none hb, ih]
    | some v => rw [List.filter_cons_of_pos (by simp [hb]), List.filterMap_cons_some hb, List.filterMap_cons_some hb, ih]

/-- What the copied text is as an input string (R247). -/
theorem inputString_copyToutToTin (s : State) : (copyToutToTin s).inputString = s.tout.toList :=
  inputString_of_text (fun k => by simp [copyToutToTin]) rfl

/-- A parse of the copied text accepts the symbols it shows (R247). -/
theorem acceptedSymbols_copyToutToTin {s : State} {cw : Vector Symbol 17} (htout : s.tout = textOf cw) :
    acceptedSymbols (copyToutToTin s).inputString = (List.finRange 17).map fun i : Fin 17 => cw[mapTable[i]] := by
  rw [inputString_copyToutToTin, htout, acceptedSymbols_textOf]

end Sys2Proof.Machine

/-! ## The statements on the address text -/

namespace Sys2Proof.Proofs
open Sys2Proof.Machine

/-- Settles O40: the step writes the machine's text, which is the canonical form. -/
theorem fmtWritesTheCanonicalText : Obligations.FmtWritesTheCanonicalText :=
  ⟨decode_encode .fmt, fun s => ⟨_, execFmt_eq s, rfl, isTextOf_textOf s.cw⟩⟩

/-- Settles O41: the codeword can be read off its text. -/
theorem fmtIsInjective : Obligations.FmtIsInjective := by
  intro s s' t t' ht ht' htout
  cases (execFmt_eq s).symm.trans ht
  cases (execFmt_eq s').symm.trans ht'
  exact textOf_injective htout

/-- Settles O42: the validation of the 17 placed symbols decides. -/
theorem parseAcceptsAValidCodeword : Obligations.ParseAcceptsAValidCodeword :=
  ⟨decode_encode .parse, fun _ _ htin hlen hcw hvalid => congrArg Ending.finish (unitParse_of_valid htin hcw hlen hvalid)⟩

/-- Settles O43: the validation of the 17 placed symbols decides. -/
theorem parseRejectsAnInvalidCodeword : Obligations.ParseRejectsAnInvalidCodeword := by
  intro s cw htin hlen hcw hvalid
  have hzero : syndromesZero (syndromes cw) = false := Bool.eq_false_iff.mpr fun h => hvalid ((validCodeword_iff cw).mpr h)
  rw [loopSyndromes_eq]
  exact congrArg Ending.finish (unitParse_of_not_valid htin hlen hcw hzero)

/-- Settles O44: the scan ends before its 17th symbol. -/
theorem parseRejectsTooFewSymbols : Obligations.ParseRejectsTooFewSymbols :=
  fun _ _ htin hlen hcw => congrArg Ending.finish (unitParse_of_tooFew htin hcw hlen)

/-- Settles O45: the scan stops at its 18th symbol. -/
theorem parseRejectsTooManySymbols : Obligations.ParseRejectsTooManySymbols :=
  fun _ _ htin hlen hcw => congrArg Ending.finish (unitParse_of_tooMany htin hcw hlen)

/-- Settles O46: the two strings have the same accepted symbols, so the two scans end alike. -/
theorem parseSkipsForeignBytes : Obligations.ParseSkipsForeignBytes := by
  intro s s' htin htin' hs hbytes
  have hsyms : acceptedSymbols s'.inputString = acceptedSymbols s.inputString := by
    rw [acceptedSymbols_eq, acceptedSymbols_eq, ← filterMap_aidx_filter, ← hbytes, filterMap_aidx_filter]
  have hparse := unitParse_eq_finishScan htin
  have hparse' := unitParse_eq_finishScan htin'
  rw [hsyms] at hparse'
  have hclear : clearParse s' = { clearParse s with tin := s'.tin, tinlen := s'.tinlen } := by rw [hs]; rfl
  obtain ⟨t, ht, ht'⟩ := finishScan_finish_with_input _ (clearParse s) s'.tin s'.tinlen
  exact ⟨t, (congrArg Ending.finish hparse).trans ht, (congrArg Ending.finish hparse').trans (hclear ▸ ht')⟩

/-- Settles O47: the text's 17 accepted symbols are placed where they were shown from, and the validation decides (O42, O43). -/
theorem parseUndoesFmt : Obligations.ParseUndoesFmt := by
  intro s
  obtain ⟨t, ht, htout⟩ : ∃ t : State, exec .fmt s = .next t ∧ t.tout = textOf s.cw := ⟨_, execFmt_eq s, rfl⟩
  have hsyms := acceptedSymbols_copyToutToTin htout
  have hlen : (acceptedSymbols (copyToutToTin t).inputString).length = 17 := by
    rw [hsyms, List.length_map, List.length_finRange]
  have hcw : IsPlacement (acceptedSymbols (copyToutToTin t).inputString) s.cw := hsyms ▸ isPlacement_shown s.cw
  have htin : (copyToutToTin t).tinlen.toNat ≤ Config.tinCap := show (26 : BitVec 7).toNat ≤ Config.tinCap by decide
  by_cases hvalid : ValidCodeword s.cw
  · exact ⟨t, _, ht, parseAcceptsAValidCodeword.2 _ _ htin hlen hcw hvalid, rfl, rfl, fun _ => rfl,
      fun hnot => absurd hvalid hnot⟩
  · exact ⟨t, _, ht, parseRejectsAnInvalidCodeword _ _ htin hlen hcw hvalid, rfl, rfl,
      fun h => absurd h hvalid, fun _ => rfl⟩

end Sys2Proof.Proofs

/-! ## Composing commands (R260)

A composite command differs from its unit commands issued one by one in that `STATUS.CODE` is written once, at its end. That makes no
difference, since no unit reads the code and the end of the next command writes over it. -/

namespace Sys2Proof.Machine

/-- Whether or not the command before wrote its `OK`, a command of this unit ends alike. -/
def IgnoresCode (unit : State → Ending) : Prop := ∀ s, (unit (endWith .ok s)).finish = (unit s).finish

theorem storeSymbols_ignoresCode (d : List Nat) : IgnoresCode (storeSymbols d) := by
  intro s
  by_cases h : (rconv 10 32 d).2 ≤ 13
  · rw [storeSymbols, storeSymbols, if_pos h, if_pos h]; rfl
  · rw [storeSymbols, storeSymbols, if_neg h, if_neg h]

theorem storeId_ignoresCode (v : Nat) : IgnoresCode (storeId v) := by
  intro s
  by_cases h : Config.idLimit ≤ v
  · rw [storeId, storeId, if_pos h, if_pos h]; rfl
  · rw [storeId, storeId, if_neg h, if_neg h]; rfl

theorem unitR10t32_ignoresCode : IgnoresCode unitR10t32 := by
  intro s
  rcases Nat.lt_or_ge 20 s.dlen.toNat with h | h
  · rw [unitR10t32_of_gt h, unitR10t32_of_gt (s := endWith .ok s) h]
  · rw [unitR10t32_of_le h, unitR10t32_of_le (s := endWith .ok s) h]; exact storeSymbols_ignoresCode _ s

theorem unitDacc_ignoresCode : IgnoresCode unitDacc := by
  intro s
  rcases Nat.lt_or_ge 20 s.dlen.toNat with h | h
  · rw [unitDacc_of_gt h, unitDacc_of_gt (s := endWith .ok s) h]
  · rw [unitDacc_of_le h, unitDacc_of_le (s := endWith .ok s) h]; exact storeId_ignoresCode _ s

theorem unitR32t10_ignoresCode : IgnoresCode unitR32t10 := fun _ => rfl

theorem unitRsenc_ignoresCode : IgnoresCode unitRsenc := fun _ => rfl

theorem unitFmt_ignoresCode : IgnoresCode unitFmt := fun _ => rfl

/-- A unit's command issued after another one that ended `OK` ends as the unit's step inside a composite command does. -/
theorem IgnoresCode.finish_of_done {unit : State → Ending} (hunit : IgnoresCode unit) {s t : State} (h : unit s = .done t) :
    (unit (endWith .ok s)).finish = .next (endWith .ok t) := by
  rw [hunit, h, finish_done]

/-- The four steps of `ENCODE` are all done: the digits of `ID` fit 13 symbols (R262). -/
theorem encodeUnits_done (s : State) : ∃ a b c t, unitDdd s = .done a ∧ unitR10t32 a = .done b ∧ unitRsenc b = .done c ∧
    unitFmt c = .done t := by
  obtain ⟨dec, dlen, hddd, hform, -⟩ := unitDdd_spec s
  obtain ⟨d, -, -, -, hconv⟩ := unitR10t32_spec hform.length.2 hform.bound
  exact ⟨_, _, _, _, hddd, hconv, unitRsenc_eq _, unitFmt_eq _⟩

/-- R264: a `DECODE` whose parse and conversion are done ends as `DACC` does. -/
theorem execDecode_of_done {s p b : State} (hparse : unitParse s = .done p) (hconv : unitR32t10 p = .done b) :
    exec .decode s = exec .dacc b := by
  have hexec : exec .decode s = (((unitParse s).andThen unitR32t10).andThen unitDacc).finish := rfl
  rw [hexec, hparse, andThen_done, hconv, andThen_done]; rfl

/-- `DDD` leaves the canonical decimal form of `ID` (R130, R131). -/
theorem execDdd_decimalForm {s t : State} (h : exec .ddd s = .next t) : t.DecimalForm ∧ t.decValue = s.id.toNat := by
  obtain ⟨dec, dlen, hddd, hform, hval⟩ := unitDdd_spec s
  obtain rfl := Host.Outcome.next.inj ((congrArg Ending.finish hddd).symm.trans h)
  exact ⟨hform.congr rfl rfl, hval⟩

/-- `RSENC` leaves a valid codeword (R215). -/
theorem execRsenc_valid {s t : State} (h : exec .rsenc s = .next t) : ValidCodeword t.cw := by
  obtain rfl := Host.Outcome.next.inj ((execRsenc_eq s).symm.trans h)
  exact (validCodeword_iff _).mpr (syndromes_putParity_rsenc s)

/-- `DACC` answers a next state wherever `DLEN` bounds the buffer (R135). -/
theorem execDacc_next {s : State} (hlen : s.dlen.toNat ≤ 20) : ∃ t, exec .dacc s = .next t := by
  rcases Nat.lt_or_ge s.decValue (2 ^ 64) with hv | hv
  · exact ⟨_, execDacc_of_lt hlen hv⟩
  · exact ⟨_, execDacc_of_ge hlen hv⟩

/-- R264: `DECODE` of a string that parses to a valid codeword is `DACC` on the canonical digits of the codeword's value. -/
theorem execDecode_of_valid {s : State} {cw : Vector Symbol 17} (htin : s.tinlen.toNat ≤ Config.tinCap)
    (hlen : (acceptedSymbols s.inputString).length = 17) (hcw : IsPlacement (acceptedSymbols s.inputString) cw)
    (hvalid : ValidCodeword cw) : ∃ dec dlen b,
    b = { s with
      cw := cw, clen := 17, syn := Vector.replicate 4 0, valid := true, dec := dec, dlen := dlen, passes := dlen } ∧
    exec .decode s = exec .dacc b ∧ b.DecimalForm ∧ b.decValue = symbolsValue cw := by
  obtain ⟨dec, dlen, hconv, hform, hval⟩ :=
    unitR32t10_spec { s with cw := cw, clen := 17, syn := Vector.replicate 4 0, valid := true }
  exact ⟨dec, dlen, _, rfl, execDecode_of_done (unitParse_of_valid htin hcw hlen hvalid) hconv, hform, hval⟩

/-- The value of the digits depends on `DEC` and `DLEN` alone (R24). -/
theorem decValue_congr {s t : State} (hdec : t.dec = s.dec) (hdlen : t.dlen = s.dlen) : t.decValue = s.decValue := by
  simp only [State.decValue, State.decimal, hdec, hdlen]

/-- The value of a codeword depends on its data symbols alone (R26). -/
theorem symbolsValue_congr {cw cw' : Vector Symbol 17} (h : ∀ k : Fin 13, cw[k.val] = cw'[k.val]) :
    symbolsValue cw = symbolsValue cw' := by
  simp only [symbolsValue, h]

/-- The most significant symbol of a value below 2^64 has its top bit clear, since its weight is 2^60 (R261). -/
theorem lastSymbol_le {cw : Vector Symbol 17} (h : symbolsValue cw < 2 ^ 64) : (cw[12]).toNat ≤ 15 := by
  have hterm : (cw[12]).toNat * 32 ^ 12 ≤ symbolsValue cw :=
    List.le_sum_of_mem (List.mem_map.mpr ⟨(12 : Fin 13), List.mem_finRange _, rfl⟩)
  omega

end Sys2Proof.Machine

/-! ## The statements on the system and composite commands -/

namespace Sys2Proof.Proofs
open Sys2Proof.Machine

/-- Settles O19: the end of a command with `OK` writes the code. -/
theorem nopOnlyWritesTheCode : Obligations.NopOnlyWritesTheCode := ⟨decode_encode .nop, fun _ => rfl⟩

/-- Settles O20: the code `OK` is the reset value of `STATUS.CODE`. -/
theorem clrRestoresTheResetState : Obligations.ClrRestoresTheResetState := ⟨decode_encode .clr, execClr_eq⟩

/-- Settles O49: each unit's step is done, and ignores the code that the command before wrote. -/
theorem encodeIsItsUnitCommands : Obligations.EncodeIsItsUnitCommands := by
  intro s
  obtain ⟨a, b, c, t, hddd, hconv, hrsenc, hfmt⟩ := encodeUnits_done s
  have hencode : (((unitDdd s).andThen unitR10t32).andThen unitRsenc).andThen unitFmt = .done t := by
    rw [hddd, andThen_done, hconv, andThen_done, hrsenc, andThen_done, hfmt]
  exact ⟨endWith .ok a, endWith .ok b, endWith .ok c, endWith .ok t, congrArg Ending.finish hddd,
    unitR10t32_ignoresCode.finish_of_done hconv, unitRsenc_ignoresCode.finish_of_done hrsenc,
    unitFmt_ignoresCode.finish_of_done hfmt, congrArg Ending.finish hencode⟩

/-- Settles O50, by the end of the parse: raised, or done and then continued by units that ignore its code. -/
theorem decodeIsItsUnitCommands : Obligations.DecodeIsItsUnitCommands := by
  intro s a ha
  have ha : (unitParse s).finish = .next a := ha
  rcases unitParse_cases s with hparse | ⟨cw, -, hparse⟩ | ⟨o, cw, clen, syn, ho, -, hparse⟩
  · rw [hparse] at ha; cases ha
  · rw [hparse] at ha
    cases ha
    refine ⟨fun hcode => absurd rfl hcode, fun _ => ?_⟩
    obtain ⟨dec, dlen, hconv, hform, -⟩ := unitR32t10_spec _
    obtain ⟨t, ht⟩ := execDacc_next hform.length.2
    exact ⟨_, t, unitR32t10_ignoresCode.finish_of_done hconv, (unitDacc_ignoresCode _).trans ht,
      (execDecode_of_done hparse hconv).trans ht⟩
  · rw [hparse] at ha
    cases ha
    refine ⟨fun _ => execDecode_of_raised hparse, fun hcode => ?_⟩
    rcases ho with rfl | rfl
    · exact absurd hcode (by decide : CmdOutcome.codewordTooLong.code ≠ 0)
    · exact absurd hcode (by decide : CmdOutcome.codewordInvalid.code ≠ 0)

/-- Settles O48: `ENCODE` is its unit commands (O49), so what it leaves is what they leave (O27, O34, O36, O40). -/
theorem encodeWritesTheAddressOfId : Obligations.EncodeWritesTheAddressOfId := by
  refine ⟨decode_encode .encode, fun s => ?_⟩
  obtain ⟨a, b, c, t, ha, hb, hc, ht, hencode⟩ := encodeIsItsUnitCommands s
  obtain ⟨haform, haval⟩ := execDdd_decimalForm ha
  obtain ⟨b', hb', hbframe, -, hbval, hbzero, hbpasses⟩ :=
    r10t32ConvertsTheDigitsToSymbols.2 a haform.length.2 haform.bound
  obtain rfl := Host.Outcome.next.inj (hb.symm.trans hb')
  obtain ⟨c', hc', hcframe, hcdata, hcparity, -⟩ := rsencAppendsTheParity.2 b
  obtain rfl := Host.Outcome.next.inj (hc.symm.trans hc')
  obtain ⟨t', ht', htframe, htext⟩ := fmtWritesTheCanonicalText.2 c
  obtain rfl := Host.Outcome.next.inj (ht.symm.trans ht')
  have htcw : t.cw = c.cw := by rw [htframe]
  have htp : t.p = c.p := by rw [htframe]
  have htpasses : t.passes = b.passes := by rw [htframe, hcframe]
  have htdec : t.dec = a.dec := by rw [htframe, hcframe, hbframe]
  have htdlen : t.dlen = a.dlen := by rw [htframe, hcframe, hbframe]
  have htform : t.DecimalForm := haform.congr htdec htdlen
  have htval : t.decValue = s.id.toNat := (decValue_congr htdec htdlen).trans haval
  have hcwval : symbolsValue t.cw = s.id.toNat := by rw [htcw, symbolsValue_congr hcdata, hbval, haval]
  have hid : s.id.toNat = 0 ↔ s.id = 0 := BitVec.toNat_inj (y := 0)
  rw [haval, ← htpasses] at hbzero hbpasses
  refine ⟨t, hencode, ?_, htform, htval, hcwval, lastSymbol_le (hcwval ▸ s.id.isLt), fun h => hbzero (hid.mpr h),
    fun h => hbpasses fun h0 => h (hid.mp h0), fun m => ?_, htcw ▸ execRsenc_valid hc, htcw ▸ htext⟩
  · obtain ⟨_, _, _, _, _, _, rfl⟩ := execEncode_eq_next hencode
    rfl
  · simp only [htcw, htp, hcparity]

/-- Settles O51: the decoded value fits `ID` (O22). -/
theorem decodeReadsAValidAddress : Obligations.DecodeReadsAValidAddress := by
  refine ⟨decode_encode .decode, fun s cw htin hlen hcw hvalid hv => ?_⟩
  obtain ⟨dec, dlen, b, hb, hdecode, hform, hval⟩ := execDecode_of_valid htin hlen hcw hvalid
  refine ⟨_, hdecode.trans (execDacc_of_lt hform.length.2 (hval ▸ hv)), ?_, hform.congr rfl rfl, hval, ?_⟩
  · rw [hval, hb]
  · rw [hb]

/-- Settles O52: the decoded value does not fit `ID` (O22). -/
theorem decodeReportsAnOverflow : Obligations.DecodeReportsAnOverflow := by
  intro s cw htin hlen hcw hvalid hv
  obtain ⟨dec, dlen, b, hb, hdecode, hform, hval⟩ := execDecode_of_valid htin hlen hcw hvalid
  refine ⟨_, hdecode.trans (execDacc_of_ge hform.length.2 (hval ▸ hv)), ?_, hform.congr rfl rfl, hval, ?_⟩
  · rw [hb]
  · rw [hb]

/-- Settles O53: the text shows a valid codeword with the value of `ID` (O48), and its parse accepts that codeword (O51). -/
theorem addressRoundTripRestoresId : Obligations.AddressRoundTripRestoresId := by
  intro s x
  obtain ⟨t, ht, -, -, -, hval, -, -, -, -, hvalid, htext⟩ := encodeWritesTheAddressOfId.2 s
  have hsyms := acceptedSymbols_copyToutToTin (s := { t with id := x }) (eq_textOf_of_isTextOf htext)
  have hlen : (acceptedSymbols (copyToutToTin { t with id := x }).inputString).length = 17 := by
    rw [hsyms, List.length_map, List.length_finRange]
  obtain ⟨u, hu, huframe, -⟩ := decodeReadsAValidAddress.2 (copyToutToTin { t with id := x }) t.cw
    (show (26 : BitVec 7).toNat ≤ Config.tinCap by decide) hlen (hsyms ▸ isPlacement_shown t.cw) hvalid (hval ▸ s.id.isLt)
  have huid : u.id = BitVec.ofNat 64 (symbolsValue t.cw) := congrArg State.id huframe
  refine ⟨t, u, ht, hu, ?_, congrArg State.code huframe, congrArg State.valid huframe⟩
  rw [huid, hval, BitVec.ofNat_toNat, BitVec.setWidth_eq]

end Sys2Proof.Proofs

/-! ## The cells that a command writes (the "Operands" part of each rule) -/

namespace Sys2Proof.Machine

/-- `t` differs from `s` at most in the cells whose addresses are in `W`: the frame of a command with the write list `W`. -/
structure SameBut (W : Nat → Bool) (s t : State) : Prop where
  pending : t.pending = s.pending
  response : t.response = s.response
  reads : ∀ c, W (addrOf c).toNat = false → readCell c t = readCell c s

theorem SameBut.mono {W V : Nat → Bool} {s t : State} (h : SameBut W s t) (hV : ∀ a, V a = false → W a = false) :
    SameBut V s t where
  pending := h.pending
  response := h.response
  reads c hc := h.reads c (hV _ hc)

/-- Two commands in sequence write what the one or the other does. -/
theorem SameBut.trans {W V : Nat → Bool} {s t u : State} (hst : SameBut W s t) (htu : SameBut V t u) :
    SameBut (fun a => W a || V a) s u where
  pending := htu.pending.trans hst.pending
  response := htu.response.trans hst.response
  reads c hc := by
    obtain ⟨hW, hV⟩ := Bool.or_eq_false_iff.mp hc
    exact (htu.reads c hV).trans (hst.reads c hW)

/-- The write list of `ENCODE` is those of its unit commands together (R260, R262). -/
theorem writesAddr_encode (a : Nat) : writesAddr .encode a =
    (writesAddr .ddd a || writesAddr .r10t32 a || writesAddr .rsenc a || writesAddr .fmt a) := by
  simp only [writesAddr]; grind

/-- The write list of `DECODE` is those of its unit commands together (R260, R264). -/
theorem writesAddr_decode (a : Nat) : writesAddr .decode a =
    (writesAddr .parse a || writesAddr .r32t10 a || writesAddr .dacc a) := by
  simp only [writesAddr]; grind

theorem readCell_cw_congr {s t : State} {i : Fin 17} (h : t.cw[i] = s.cw[i]) : readCell (.cw i) t = readCell (.cw i) s :=
  congrArg (fun symbol : Symbol => some (symbol.setWidth 64)) h

section Frames
variable {s t : State}

theorem execNop_sameBut (h : exec .nop s = .next t) : SameBut (writesAddr .nop) s t := by
  obtain rfl : endWith .ok s = t := Host.Outcome.next.inj h
  refine ⟨rfl, rfl, fun c hc => ?_⟩
  cases c with
  | status => exact absurd hc (by decide)
  | _ => rfl

theorem execDdd_sameBut (h : exec .ddd s = .next t) : SameBut (writesAddr .ddd) s t := by
  obtain ⟨dec, dlen, rfl⟩ : ∃ dec dlen, t = endWith .ok { s with dec := dec, dlen := dlen } :=
    ⟨_, _, (Host.Outcome.next.inj ((execDdd_eq s).symm.trans h)).symm⟩
  refine ⟨rfl, rfl, fun c hc => ?_⟩
  cases c with
  | status | dlen => exact absurd hc (by decide)
  | dec i => exact absurd hc (by revert i; decide)
  | _ => rfl

/-- Everything `R10T32` can leave (R160): the parity cells stay. -/
theorem execR10t32_eq_next (h : exec .r10t32 s = .next t) :
    ∃ cw passes, (∀ k : Fin 17, ¬ k.val < 13 → cw[k] = s.cw[k]) ∧
      t = endWith .ok { s with cw := cw, passes := passes } := by
  have h : (unitR10t32 s).finish = .next t := h
  rcases Nat.lt_or_ge 20 s.dlen.toNat with hlen | hlen
  · rw [unitR10t32_of_gt hlen] at h; cases h
  · rw [unitR10t32_of_le hlen] at h
    rcases storeSymbols_cases ((s.dec.toList.take s.dlen.toNat).map BitVec.toNat) s with ⟨-, he⟩ | ⟨-, he⟩
    · rw [he] at h
      exact ⟨_, _, fun k hk => by simp [hk], (Host.Outcome.next.inj h).symm⟩
    · rw [he] at h; cases h

theorem execR10t32_sameBut (h : exec .r10t32 s = .next t) : SameBut (writesAddr .r10t32) s t := by
  obtain ⟨cw, passes, hparity, rfl⟩ := execR10t32_eq_next h
  refine ⟨rfl, rfl, fun c hc => ?_⟩
  cases c with
  | status | passes => exact absurd hc (by decide)
  | cw i =>
    have hi : ¬ i.val < 13 := fun hlt => absurd hc (by revert i; decide)
    exact readCell_cw_congr (hparity i hi)
  | _ => rfl

theorem execR32t10_sameBut (h : exec .r32t10 s = .next t) : SameBut (writesAddr .r32t10) s t := by
  obtain ⟨dec, dlen, hunit, -⟩ := unitR32t10_spec s
  obtain rfl := Host.Outcome.next.inj ((congrArg Ending.finish hunit).symm.trans h)
  refine ⟨rfl, rfl, fun c hc => ?_⟩
  cases c with
  | status | dlen | passes => exact absurd hc (by decide)
  | dec i => exact absurd hc (by revert i; decide)
  | _ => rfl

/-- Whatever `DACC` ends with, of the cells `ID` and `STATUS` alone can change (R135). -/
theorem execDacc_sameBut (h : exec .dacc s = .next t) : SameBut (writesAddr .dacc) s t := by
  obtain ⟨o, id, rfl⟩ : ∃ o id, t = endWith o { s with id := id } := by
    rcases execDacc_cases h with rfl | ⟨id, -, rfl⟩
    · exact ⟨_, s.id, rfl⟩
    · exact ⟨_, id, rfl⟩
  refine ⟨rfl, rfl, fun c hc => ?_⟩
  cases c with
  | status | id => exact absurd hc (by decide)
  | _ => rfl

theorem execGfmul_sameBut {a b : Symbol} (h : exec (.gfmul a b) s = .next t) : SameBut (writesAddr (.gfmul a b)) s t := by
  obtain rfl : endWith .ok { s with gp := gmul a b } = t := Host.Outcome.next.inj h
  refine ⟨rfl, rfl, fun c hc => ?_⟩
  cases c with
  | status | gp => simp [writesAddr, addrOf] at hc
  | _ => rfl

theorem execRsenc_sameBut (h : exec .rsenc s = .next t) : SameBut (writesAddr .rsenc) s t := by
  obtain ⟨p, cw, hdata, rfl⟩ : ∃ p cw, (∀ k : Fin 17, ¬ 13 ≤ k.val → cw[k] = s.cw[k]) ∧
      t = endWith .ok { s with p := p, cw := cw } :=
    ⟨_, _, fun k hk => by simp [hk], (Host.Outcome.next.inj ((execRsenc_eq s).symm.trans h)).symm⟩
  refine ⟨rfl, rfl, fun c hc => ?_⟩
  cases c with
  | status => exact absurd hc (by decide)
  | p i => exact absurd hc (by revert i; decide)
  | cw i =>
    have hi : ¬ 13 ≤ i.val := fun hle => absurd hc (by revert i; decide)
    exact readCell_cw_congr (hdata i hi)
  | _ => rfl

theorem execRschk_sameBut (h : exec .rschk s = .next t) : SameBut (writesAddr .rschk) s t := by
  obtain rfl := Host.Outcome.next.inj ((execRschk_eq s).symm.trans h)
  refine ⟨rfl, rfl, fun c hc => ?_⟩
  cases c with
  | status => exact absurd hc (by decide)
  | syn i => exact absurd hc (by revert i; decide)
  | _ => rfl

theorem execFmt_sameBut (h : exec .fmt s = .next t) : SameBut (writesAddr .fmt) s t := by
  obtain ⟨tout, rfl⟩ : ∃ tout, t = endWith .ok { s with tout := tout, toutlen := 26 } :=
    ⟨_, (Host.Outcome.next.inj ((execFmt_eq s).symm.trans h)).symm⟩
  refine ⟨rfl, rfl, fun c hc => ?_⟩
  cases c with
  | status | toutlen => exact absurd hc (by decide)
  | tout i => exact absurd hc (by revert i; decide)
  | _ => rfl

/-- Whatever `PARSE` ends with, it is its four registers and `STATUS` alone that can change (R240, R246). -/
theorem execParse_sameBut (h : exec .parse s = .next t) : SameBut (writesAddr .parse) s t := by
  obtain ⟨o, cw, clen, syn, valid, rfl⟩ :
      ∃ o cw clen syn valid, t = endWith o { s with cw := cw, clen := clen, syn := syn, valid := valid } := by
    rcases execParse_cases h with ⟨cw, rfl⟩ | ⟨o, cw, clen, syn, -, rfl⟩
    · exact ⟨_, _, _, _, _, rfl⟩
    · exact ⟨_, _, _, _, _, rfl⟩
  refine ⟨rfl, rfl, fun c hc => ?_⟩
  cases c with
  | status | clen => exact absurd hc (by decide)
  | cw i | syn i => exact absurd hc (by revert i; decide)
  | _ => rfl

/-- `CLR` writes every cell but the constant tables (R267, R73). -/
theorem execClr_sameBut (h : exec .clr s = .next t) : SameBut (writesAddr .clr) s t := by
  obtain rfl := Host.Outcome.next.inj ((execClr_eq s).symm.trans h)
  exact ⟨rfl, rfl, fun c hc => readCell_eq_of_table (by simpa [writesAddr] using hc) _ _⟩

/-- A `DECODE` that answers is one whose `PARSE` does (R264). -/
theorem execParse_next_of_execDecode_next (h : exec .decode s = .next t) : ∃ a, exec .parse s = .next a := by
  have h : (((unitParse s).andThen unitR32t10).andThen unitDacc).finish = .next t := h
  rcases unitParse_cases s with he | ⟨cw, -, he⟩ | ⟨o, cw, clen, syn, -, -, he⟩
  · rw [he] at h; cases h
  · exact ⟨_, congrArg Ending.finish he⟩
  · exact ⟨_, congrArg Ending.finish he⟩

end Frames

end Sys2Proof.Machine

/-! ## The statement on the cells that a command writes -/

namespace Sys2Proof.Proofs
open Sys2Proof.Machine

/-- `ENCODE` writes what its unit commands do (O49, R262). -/
theorem execEncode_sameBut {s t : State} (h : exec .encode s = .next t) : SameBut (writesAddr .encode) s t := by
  obtain ⟨a, b, c, t', ha, hb, hc, ht, hencode⟩ := encodeIsItsUnitCommands s
  obtain rfl := Host.Outcome.next.inj (hencode.symm.trans h)
  rw [funext writesAddr_encode]
  exact (((execDdd_sameBut ha).trans (execR10t32_sameBut hb)).trans (execRsenc_sameBut hc)).trans (execFmt_sameBut ht)

/-- `DECODE` writes what its unit commands do, `PARSE` alone if it raises (O50, R264). -/
theorem execDecode_sameBut {s t : State} (h : exec .decode s = .next t) : SameBut (writesAddr .decode) s t := by
  obtain ⟨a, ha⟩ := execParse_next_of_execDecode_next h
  obtain ⟨hraised, hok⟩ := decodeIsItsUnitCommands s a ha
  by_cases hcode : a.code = 0
  · obtain ⟨b, t', hb, ht, hdecode⟩ := hok hcode
    obtain rfl := Host.Outcome.next.inj (hdecode.symm.trans h)
    rw [funext writesAddr_decode]
    exact ((execParse_sameBut ha).trans (execR32t10_sameBut hb)).trans (execDacc_sameBut ht)
  · obtain rfl := Host.Outcome.next.inj ((hraised hcode).symm.trans h)
    exact (execParse_sameBut ha).mono fun n hn => by
      rw [writesAddr_decode, Bool.or_eq_false_iff, Bool.or_eq_false_iff] at hn
      obtain ⟨⟨hparse, -⟩, -⟩ := hn
      exact hparse

/-- No command changes a cell that is not on its write list. -/
theorem exec_sameBut {i : Instr} {s t : State} (h : exec i s = .next t) : SameBut (writesAddr i) s t := by
  cases i with
  | nop => exact execNop_sameBut h
  | ddd => exact execDdd_sameBut h
  | r10t32 => exact execR10t32_sameBut h
  | r32t10 => exact execR32t10_sameBut h
  | dacc => exact execDacc_sameBut h
  | gfmul a b => exact execGfmul_sameBut h
  | rsenc => exact execRsenc_sameBut h
  | rschk => exact execRschk_sameBut h
  | fmt => exact execFmt_sameBut h
  | parse => exact execParse_sameBut h
  | encode => exact execEncode_sameBut h
  | decode => exact execDecode_sameBut h
  | clr => exact execClr_sameBut h

/-- Settles O55: command by command, a cell that is not on the write list reads as before, and so does its address. -/
theorem commandsWriteOnlyTheirCells : Obligations.CommandsWriteOnlyTheirCells := by
  intro i s t h
  obtain ⟨hpending, hresponse, hreads⟩ := exec_sameBut h
  exact ⟨hpending, hresponse, fun a ha => hostRead_congr fun c hc => hreads c (hc ▸ ha)⟩

end Sys2Proof.Proofs

/-! ## Completion (R294, R298, R301, R331)

No operation stops where `DLEN` and `TINLEN` bound their buffers and `DEC` fits 13 symbols. The invariant gives these three bounds, and
every step keeps it, so a run that begins with it goes on for any number of steps. -/

namespace Sys2Proof.Machine

/-- `PARSE`'s step ends, done or raised, wherever `TINLEN` bounds the buffer (R246). -/
theorem unitParse_ends {s : State} (htin : s.tinlen.toNat ≤ Config.tinCap) :
    (∃ t, unitParse s = .done t) ∨ ∃ o t, unitParse s = .raised o t := by
  rw [unitParse_of_le htin]
  rcases parseBytes_cases (s.tin.toList.take s.tinlen.toNat) s with ⟨-, he⟩ | ⟨-, he⟩ | ⟨-, -, he⟩ | ⟨-, -, he⟩
  · exact .inr ⟨_, _, he⟩
  · exact .inr ⟨_, _, he⟩
  · exact .inl ⟨_, he⟩
  · exact .inr ⟨_, _, he⟩

theorem execParse_next {s : State} (htin : s.tinlen.toNat ≤ Config.tinCap) : ∃ t, exec .parse s = .next t := by
  rcases unitParse_ends htin with ⟨t, he⟩ | ⟨o, t, he⟩
  · exact ⟨_, congrArg Ending.finish he⟩
  · exact ⟨_, congrArg Ending.finish he⟩

/-- `DECODE` needs the bound on `TINLEN` alone: `DACC` reads the digits that its own conversion has written (R264). -/
theorem execDecode_next {s : State} (htin : s.tinlen.toNat ≤ Config.tinCap) : ∃ t, exec .decode s = .next t := by
  rcases unitParse_ends htin with ⟨p, hparse⟩ | ⟨o, p, hparse⟩
  · obtain ⟨dec, dlen, hconv, hform, -⟩ := unitR32t10_spec p
    rw [execDecode_of_done hparse hconv]
    exact execDacc_next hform.length.2
  · exact ⟨_, execDecode_of_raised hparse⟩

/-- The 13 symbols hold any value below 2^65 (R162). -/
theorem execR10t32_next {s : State} (hlen : s.dlen.toNat ≤ 20) (hv : s.decValue < 2 ^ 65) : ∃ t, exec .r10t32 s = .next t := by
  obtain ⟨d, -, -, -, hunit⟩ := unitR10t32_spec hlen hv
  exact ⟨_, congrArg Ending.finish hunit⟩

/-- `ENCODE` completes in every state: `R10T32` reads the digits of `ID`, which fit (R262). -/
theorem execEncode_next (s : State) : ∃ t, exec .encode s = .next t := by
  obtain ⟨-, -, -, t, -, -, -, -, hencode⟩ := Proofs.encodeIsItsUnitCommands s
  exact ⟨t, hencode⟩

/-- Every command completes where the lengths bound their buffers and the digits fit 13 symbols. -/
theorem exec_next {s : State} (hlen : s.dlen.toNat ≤ 20) (htin : s.tinlen.toNat ≤ Config.tinCap) (hv : s.decValue < 2 ^ 65)
    (i : Instr) : ∃ t, exec i s = .next t := by
  cases i with
  | nop => exact ⟨_, rfl⟩
  | ddd => exact ⟨_, execDdd_eq s⟩
  | r10t32 => exact execR10t32_next hlen hv
  | r32t10 => exact ⟨_, congrArg Ending.finish (unitR32t10_eq s)⟩
  | dacc => exact execDacc_next hlen
  | gfmul a b => exact ⟨_, rfl⟩
  | rsenc => exact ⟨_, execRsenc_eq s⟩
  | rschk => exact ⟨_, execRschk_eq s⟩
  | fmt => exact ⟨_, execFmt_eq s⟩
  | parse => exact execParse_next htin
  | encode => exact execEncode_next s
  | decode => exact execDecode_next htin
  | clr => exact ⟨_, execClr_eq s⟩

/-- The invariant gives the three bounds that the commands need. -/
theorem State.Inv.exec_next {s : State} (hs : s.Inv) (i : Instr) : ∃ t, exec i s = .next t :=
  Machine.exec_next hs.decimal.length.2 hs.ranges.tinlen hs.decimal.bound i

/-- The issue of a word completes, be it a command or not, where the commands do (R110). -/
theorem issueWord_next {s : State} (hexec : ∀ i, ∃ t, exec i s = .next t) (w : CmdWord) : ∃ t, issueWord w s = .next t := by
  by_cases hlegal : w.legal = true
  · obtain ⟨i, hi⟩ := (decode_command_iff_legal w).mpr hlegal
    rw [issueWord_of_command hi]
    exact hexec i
  · exact ⟨_, issueWord_of_not_legal (Bool.eq_false_iff.mpr hlegal) s⟩

/-- A write transaction is an accepted one, an issue of a word, or one answered `err`, and completes in each case (R66 to R69). -/
theorem State.Inv.step_wr_next {s : State} (hs : s.Inv) {a : HostAddr} {d : HostData} {rest : List HostEvent}
    (hp : s.pending = .wr a d :: rest) : ∃ t, step s = .next t := by
  by_cases hacc : acceptedWrite a.toNat d.toNat = true
  · obtain ⟨t, hstep, -⟩ := Proofs.acceptedWriteReplacesOneCell s rest a d hp hacc
    exact ⟨t, hstep⟩
  · by_cases hcmd : a = 0x001 ∧ d.toNat ≤ 65535
    · obtain ⟨rfl, hd⟩ := hcmd
      rw [step_issue hp hd]
      exact issueWord_next (inv_keptByOps.host s rest (some .ok) hs).exec_next _
    · obtain ⟨hwrite, -⟩ := Proofs.refusedTransactionChangesNothing
      exact ⟨_, hwrite s rest a d hp (Bool.eq_false_iff.mpr hacc) hcmd⟩

/-- Progress: a state with the invariant has a next one, whatever the host does (R298). -/
theorem State.Inv.step_next {s : State} (hs : s.Inv) : ∃ t, step s = .next t := by
  cases hp : s.pending with
  | nil => exact ⟨s, by rw [step, hp]⟩
  | cons e rest =>
    cases e with
    | rd a => exact ⟨_, step_rd hp⟩
    | wr a d => exact hs.step_wr_next hp
    | reset => exact ⟨_, step_of_pending hp⟩

/-- A run is its first step and the run from there. -/
theorem run_succ_of_step {s t : State} (h : step s = .next t) (k : Nat) : core.run (k + 1) s = core.run k t := by
  have hstep : core.step s = .next t := h
  simp only [Host.Core.run, hstep]

/-- Progress and preservation along a run: a property under which there is a next step, and which every step keeps, is one under
which no run stops. -/
theorem runsOn_of_progress {P : State → Prop} (hprogress : ∀ s, P s → ∃ t, step s = .next t)
    (hkept : ∀ s t, P s → step s = .next t → P t) {s : State} (hs : P s) : s.RunsOn := by
  intro k
  induction k generalizing s with
  | zero => exact ⟨s, rfl⟩
  | succ k ih =>
    obtain ⟨t, hstep⟩ := hprogress s hs
    rw [run_succ_of_step hstep]
    exact ih (hkept s t hs hstep)

end Sys2Proof.Machine

/-! ## The statements on completion -/

namespace Sys2Proof.Proofs
open Sys2Proof.Machine

/-- Settles O5, command by command. -/
theorem commandsCompleteInEveryLegalState : Obligations.CommandsCompleteInEveryLegalState :=
  fun i _ hlen htin hv => exec_next hlen htin hv i

/-- Settles O4: under the invariant there is a next step, and that step keeps it (O3). -/
theorem noRunFromALegalStateStops : Obligations.NoRunFromALegalStateStops :=
  fun _ => runsOn_of_progress (fun _ => State.Inv.step_next) everyStepKeepsTheInvariant

end Sys2Proof.Proofs

/-! ## The platform's reset (R320) -/

namespace Sys2Proof.Machine

/-- No answer is outstanding in the reset state, so a reset keeps of a state what remains of the host's stream only (R320, log 4). -/
theorem doReset_eq (s : State) : doReset s = { State.reset with pending := s.pending } := rfl

theorem step_reset {s : State} {rest : List HostEvent} (h : s.pending = .reset :: rest) :
    step s = .next { State.reset with pending := rest } := by
  rw [step_of_pending h, doEvent, doReset_eq]

end Sys2Proof.Machine

/-! ## The statement on the platform's reset -/

namespace Sys2Proof.Proofs
open Sys2Proof.Machine

/-- Settles O13: the reset is the oldest event, and the step performs it. -/
theorem resetEventGivesTheResetState : Obligations.ResetEventGivesTheResetState := fun _ _ => step_reset

end Sys2Proof.Proofs
